-- ==== Sys2Proof/Word.lean ====
section
/-! DEFINITION. The word types of the engine (spec/00_scope.md R8): unsigned values of 4, 8, 12 and 16 bits. -/

namespace Sys2Proof

/-- A register, memory byte or timer (R8 `u8`). -/
abbrev Byte := BitVec 8

/-- An opcode, and the 16-bit storage of `pc`, `I` and the stack entries (10_state.md R23 to R25). -/
abbrev Word := BitVec 16

/-- A general-register index (10_state.md R21). -/
abbrev Reg := BitVec 4

/-- A 12-bit address field of an opcode (30_encoding.md R80). -/
abbrev Addr := BitVec 12

end Sys2Proof
end

