-- ==== Sys2Proof/Config.lean ====
section
/-! DEFINITION. The parameters of a machine instance (spec/00_scope.md R6), and the free values. The parameters' default
values stand in Machine/Params.lean. -/

namespace Sys2Proof

/-- KEY_INDEX_MODE of R6 and 42_skip.md R147: the key EX9E and EXA1 test when `V[x] > 15` (decision D13). -/
inductive KeyIndexMode where
  | mask         -- the key is `V[x] & 0xF`
  | oorReleased  -- a value above 15 reads as not pressed
  deriving DecidableEq, Repr

/-- SKIP_REG_LOW_NIBBLE of R6 and 30_encoding.md R88: what 5XYn and 9XYn with `n ≠ 0` are (decision D14). -/
inductive SkipLowNibble where
  | strict  -- no-ops
  | ignore  -- they execute as 5XY0 and 9XY0
  deriving DecidableEq, Repr

/-- The output map of PRNG (R6, 10_state.md R34): how a generator state gives its byte. -/
inductive PrngMap where
  | bits (lo : Nat)     -- the bits `lo + 7` down to `lo`
  | unknown (id : Nat)  -- an implementation's own map, `Config.unknownPrngMap id`
  deriving DecidableEq, Repr

/-- The parameters of R6 that place the program, the glyph table and the multiplayer words. -/
structure Layout where
  /-- PROGRAM_ORIGIN (decision D4). -/
  programOrigin : Nat
  /-- FONT_BASE (decision D5). -/
  fontBase : Nat
  /-- FONT_DATA (decision D5). -/
  fontData : List Byte
  /-- MP_BASE, the word of SYNC; PLAYER n is `MP_BASE + n` (decision D2). -/
  mpBase : Nat
  /-- MP_SHARED (decision D2). -/
  mpShared : Nat
  deriving DecidableEq, Repr

/-- The parameters of one machine instance (R6), fixed before `load` (70_reset_and_hazards.md R253, decision D30).
A state carries its instance's parameters, so that a claim holds for every choice the spec allows. -/
structure Config where
  /-- PROGRAM_ORIGIN, FONT_BASE, FONT_DATA, MP_BASE and MP_SHARED. -/
  layout : Layout
  /-- COORD_PRESENT: a multi-actor coordinator is attached. -/
  coordPresent : Bool
  /-- VF_WRITE_LAST: 8XY4/5/6/7/E write the flag after the result (43_alu.md R150). -/
  vfWriteLast : Bool
  /-- KEY_INDEX_MODE. -/
  keyIndexMode : KeyIndexMode
  /-- SKIP_REG_LOW_NIBBLE. -/
  skipLowNibble : SkipLowNibble
  /-- TICK_WHILE_HALTED: the timer advance acts while halted (60_exceptions.md R230). -/
  tickWhileHalted : Bool
  /-- PRNG: the state's width in bits (10_state.md R34). -/
  prngWidth : Nat
  /-- PRNG: the multiplier. -/
  prngMul : Nat
  /-- PRNG: the increment. -/
  prngInc : Nat
  /-- PRNG: the output map. -/
  prngMap : PrngMap
  deriving DecidableEq, Repr

/-- The time-derived seed of a reset or load without a seed: a value no rule constrains (44_index_random_draw.md R171,
93_implementation_defined.md U3). It is applied to a counter in State; nothing can be proved of its value. -/
opaque Config.freeSeed : Nat → Nat

/-- The output maps no `PrngMap.bits` describes, one for each number: any function of the generator's state (D20, U14). -/
opaque Config.unknownPrngMap : Nat → Nat → Byte

/-- SURFACE_HASH of R6: any function of the pixels alone (60_exceptions.md R242, decision D32). -/
opaque Config.surfaceHash : List Byte → Nat

end Sys2Proof
end

