-- ==== Sys2Proof/Machine/Params.lean ====
section
/-! DEFINITION. The default values of the parameters of spec/00_scope.md R6, and what memory and display hold at reset. -/

namespace Sys2Proof.Machine

/-- The default FONT_DATA: 16 glyphs of 5 bytes, top row first (10_state.md R33). -/
def fontData : List Byte :=
  [0xF0#8, 0x90#8, 0x90#8, 0x90#8, 0xF0#8]
  ++ [0x20#8, 0x60#8, 0x20#8, 0x20#8, 0x70#8]
  ++ [0xF0#8, 0x10#8, 0xF0#8, 0x80#8, 0xF0#8]
  ++ [0xF0#8, 0x10#8, 0xF0#8, 0x10#8, 0xF0#8]
  ++ [0x90#8, 0x90#8, 0xF0#8, 0x10#8, 0x10#8]
  ++ [0xF0#8, 0x80#8, 0xF0#8, 0x10#8, 0xF0#8]
  ++ [0xF0#8, 0x80#8, 0xF0#8, 0x90#8, 0xF0#8]
  ++ [0xF0#8, 0x10#8, 0x20#8, 0x40#8, 0x40#8]
  ++ [0xF0#8, 0x90#8, 0xF0#8, 0x90#8, 0xF0#8]
  ++ [0xF0#8, 0x90#8, 0xF0#8, 0x10#8, 0xF0#8]
  ++ [0xF0#8, 0x90#8, 0xF0#8, 0x90#8, 0x90#8]
  ++ [0xE0#8, 0x90#8, 0xE0#8, 0x90#8, 0xE0#8]
  ++ [0xF0#8, 0x80#8, 0x80#8, 0x80#8, 0xF0#8]
  ++ [0xE0#8, 0x90#8, 0x90#8, 0x90#8, 0xE0#8]
  ++ [0xF0#8, 0x80#8, 0xF0#8, 0x80#8, 0xF0#8]
  ++ [0xF0#8, 0x80#8, 0xF0#8, 0x80#8, 0x80#8]

/-- The defaults of R6 for the places (decisions D2, D4, D5). -/
def defaultLayout : Layout where
  programOrigin := 0x200
  fontBase := 0x050
  fontData := fontData
  mpBase := 0x0100
  mpShared := 0x0110

/-- The defaults of R6. COORD_PRESENT has none: DESIGN CHOICE false (notes/assumptions/30.md). -/
def defaultConfig : Config where
  layout := defaultLayout
  coordPresent := false
  vfWriteLast := true
  keyIndexMode := .mask
  skipLowNibble := .strict
  tickWhileHalted := true
  prngWidth := 32
  prngMul := 1664525
  prngInc := 1013904223
  prngMap := .bits 24

/-- The reset contents of memory: the glyph table, and zero elsewhere (10_state.md R45, 20_memory.md R66). It is what an
address no write has changed reads as. -/
def memoryAtReset (l : Layout) (a : Nat) : Byte :=
  if l.fontBase ≤ a then l.fontData.getD (a - l.fontBase) 0#8 else 0#8

/-- The reset contents of the display: every pixel off (10_state.md R45). -/
def displayAtReset (_ : Nat) : Byte := 0#8

end Sys2Proof.Machine
end

