-- ==== Sys2Proof/Syntax.lean ====
section
/-! DEFINITION. The instructions, one constructor per row of spec/opcode_table.json (30_encoding.md R83). The operand
types are the field widths of R80, so an operand out of range cannot be written. -/

namespace Sys2Proof

/-- The instruction set. An encoding that matches no row is no instruction of this type: Decode.lean names it a no-op
(30_encoding.md R89). -/
inductive Instr where
  -- 41_flow.md
  | cls
  | ret
  -- 46_multiplayer.md: the table has one row for each player
  | sync
  | player1
  | player2
  | player3
  | player4
  | player5
  | player6
  | player7
  | player8
  | player9
  | player10
  | player11
  | player12
  | player13
  | player14
  | player15
  | shared
  -- 41_flow.md
  | jp (nnn : Addr)
  | call (nnn : Addr)
  -- 42_skip.md
  | seImm (x : Reg) (kk : Byte)
  | sneImm (x : Reg) (kk : Byte)
  | seReg (x y : Reg)
  -- 43_alu.md
  | ldImm (x : Reg) (kk : Byte)
  | addImm (x : Reg) (kk : Byte)
  | ldReg (x y : Reg)
  | orReg (x y : Reg)
  | andReg (x y : Reg)
  | xorReg (x y : Reg)
  | addReg (x y : Reg)
  | subReg (x y : Reg)
  | shrReg (x y : Reg)
  | subnReg (x y : Reg)
  | shlReg (x y : Reg)
  -- 42_skip.md
  | sneReg (x y : Reg)
  -- 44_index_random_draw.md, 41_flow.md
  | ldI (nnn : Addr)
  | jpV0 (nnn : Addr)
  | rnd (x : Reg) (kk : Byte)
  | drw (x y : Reg) (n : BitVec 4)
  -- 42_skip.md
  | skp (x : Reg)
  | sknp (x : Reg)
  -- 45_fx.md
  | ldVxDT (x : Reg)
  | ldVxK (x : Reg)
  | ldDTVx (x : Reg)
  | ldSTVx (x : Reg)
  | addI (x : Reg)
  | ldF (x : Reg)
  | ldB (x : Reg)
  | storeRegs (x : Reg)
  | loadRegs (x : Reg)
  deriving DecidableEq, Repr

end Sys2Proof
end

