-- ==== Sys2Proof/WellFormed.lean ====
section
/-! DEFINITION. The checks the spec asks for before anything runs. An instruction carries its operand widths in its types
(30_encoding.md R80), so no check is left for it; what can be ill-formed is a choice of the parameters (00_scope.md R6,
decisions D2 and D5) and a program image (20_memory.md R67). -/

namespace Sys2Proof

/-- Every term of `Instr` is well-formed: each operand's type is its field's width and no field value is reserved
(30_encoding.md R87), and R89 makes no encoding illegal. -/
def Instr.wellFormed (_ : Instr) : Bool := true

/-- The glyph table has its 80 bytes (10_state.md R33). -/
def Layout.fontComplete (l : Layout) : Bool := l.fontData.length == 80

/-- The glyph table lies below the program and does not overlap it (20_memory.md R66, decision D5). -/
def Layout.fontBelowOrigin (l : Layout) : Bool := l.fontBase + 80 ≤ l.programOrigin

/-- The entry point is an address (20_memory.md R60). -/
def Layout.originInMemory (l : Layout) : Bool := l.programOrigin < 4096

/-- The SYNC and PLAYER block lies in the group-0 space (30_encoding.md R84, R90). -/
def Layout.mpBlockInGroup0 (l : Layout) : Bool := l.mpBase + 15 < 0x1000

/-- `MP_BASE + n` is `MP_BASE | n` and `n` is the low nibble (00_scope.md R6, 46_multiplayer.md R211): DEDUCED,
notes/assumptions/42.md. -/
def Layout.mpBaseAligned (l : Layout) : Bool := l.mpBase % 16 == 0

/-- SHARED lies in the group-0 space (30_encoding.md R84, R90). -/
def Layout.sharedInGroup0 (l : Layout) : Bool := l.mpShared < 0x1000

/-- The SYNC and PLAYER block avoids 00E0 and 00EE (30_encoding.md R84, decision D2). -/
def Layout.mpBlockAvoidsClsRet (l : Layout) : Bool :=
  !(l.mpBase ≤ 0xE0 && 0xE0 ≤ l.mpBase + 15) && !(l.mpBase ≤ 0xEE && 0xEE ≤ l.mpBase + 15)

/-- SHARED avoids 00E0 and 00EE (30_encoding.md R84, decision D2). -/
def Layout.sharedAvoidsClsRet (l : Layout) : Bool := l.mpShared != 0xE0 && l.mpShared != 0xEE

/-- SHARED lies outside the SYNC and PLAYER block (decision D2). -/
def Layout.sharedOutsideMpBlock (l : Layout) : Bool := !(l.mpBase ≤ l.mpShared && l.mpShared ≤ l.mpBase + 15)

/-- A layout a model may take. -/
def Layout.wellFormed (l : Layout) : Bool :=
  l.fontComplete && l.fontBelowOrigin && l.originInMemory && l.mpBlockInGroup0 && l.mpBaseAligned && l.sharedInGroup0
    && l.mpBlockAvoidsClsRet && l.sharedAvoidsClsRet && l.sharedOutsideMpBlock

/-- The output byte's bits are bits of the generator's state (10_state.md R34): DEDUCED, notes/assumptions/43.md. -/
def Config.prngMapInState (cfg : Config) : Bool :=
  match cfg.prngMap with
  | .bits lo => lo + 8 ≤ cfg.prngWidth
  | .unknown _ => true

/-- Parameters a model may take. -/
def Config.wellFormed (cfg : Config) : Bool := cfg.layout.wellFormed && cfg.prngMapInState

/-- A program image of `len` bytes fits the program window (20_memory.md R67). -/
def Layout.imageFits (l : Layout) (len : Nat) : Bool := len ≤ 4096 - l.programOrigin

end Sys2Proof
end

