-- ==== Sys2Proof/Decode.lean ====
section
/-! DEFINITION. The decoder (30_encoding.md R80 to R90), total on every 16-bit word, and the encoder written from the same
table. A word that matches no row is a no-op, rejected from the instruction set under the name of its class (R89). -/

namespace Sys2Proof

/-- The classes of the no-op words of R89. -/
inductive NopClass where
  | legacySys      -- 0NNN outside 00E0, 00EE, the multiplayer block and MP_SHARED (46_multiplayer.md R213)
  | skipLowNibble  -- 5XYn or 9XYn with n ≠ 0 under the strict parameter (R88)
  | aluSubcode     -- 8XYn with n in 8..D, F (R85)
  | keySubcode     -- EXkk with kk not 9E or A1 (R86)
  | fSubcode       -- FXkk with kk not one of the nine sub-codes (R86)
  deriving DecidableEq, Repr

/-- What the decoder answers for a word (R81). -/
inductive Decoded where
  | instr (i : Instr)
  | nop (why : NopClass)
  deriving DecidableEq, Repr

/-- The group `c`, bits 15:12 (R80). -/
def fieldC (op : Word) : BitVec 4 := op.extractLsb' 12 4

/-- The field `x`, bits 11:8 (R80). -/
def fieldX (op : Word) : Reg := op.extractLsb' 8 4

/-- The field `y`, bits 7:4 (R80). -/
def fieldY (op : Word) : Reg := op.extractLsb' 4 4

/-- The field `n`, bits 3:0 (R80). -/
def fieldN (op : Word) : BitVec 4 := op.extractLsb' 0 4

/-- The field `kk`, bits 7:0 (R80). -/
def fieldKK (op : Word) : Byte := op.extractLsb' 0 8

/-- The field `nnn`, bits 11:0 (R80). -/
def fieldNNN (op : Word) : Addr := op.extractLsb' 0 12

/-- The instruction of sub-code `n` of the multiplayer block: SYNC for 0, PLAYER n for 1..15 (46_multiplayer.md R210, R211). -/
def decodeMultiplayer (n : Nat) : Instr :=
  match n with
  | 0 => .sync
  | 1 => .player1
  | 2 => .player2
  | 3 => .player3
  | 4 => .player4
  | 5 => .player5
  | 6 => .player6
  | 7 => .player7
  | 8 => .player8
  | 9 => .player9
  | 10 => .player10
  | 11 => .player11
  | 12 => .player12
  | 13 => .player13
  | 14 => .player14
  | _ => .player15

/-- Group 0, matched in the order of R84. -/
def decodeGroup0 (l : Layout) (op : Word) : Decoded :=
  if op = 0x00E0#16 then .instr .cls
  else if op = 0x00EE#16 then .instr .ret
  else if l.mpBase ≤ op.toNat ∧ op.toNat ≤ l.mpBase + 15 then .instr (decodeMultiplayer (op.toNat - l.mpBase))
  else if op.toNat = l.mpShared then .instr .shared
  else .nop .legacySys

/-- Group 8: `n` selects the operation (R82, R83, R85). -/
def decodeGroup8 (op : Word) : Decoded :=
  match (fieldN op).toNat with
  | 0x0 => .instr (.ldReg (fieldX op) (fieldY op))
  | 0x1 => .instr (.orReg (fieldX op) (fieldY op))
  | 0x2 => .instr (.andReg (fieldX op) (fieldY op))
  | 0x3 => .instr (.xorReg (fieldX op) (fieldY op))
  | 0x4 => .instr (.addReg (fieldX op) (fieldY op))
  | 0x5 => .instr (.subReg (fieldX op) (fieldY op))
  | 0x6 => .instr (.shrReg (fieldX op) (fieldY op))
  | 0x7 => .instr (.subnReg (fieldX op) (fieldY op))
  | 0xE => .instr (.shlReg (fieldX op) (fieldY op))
  | _ => .nop .aluSubcode

/-- Group 0xE: `kk` selects the operation (R86). -/
def decodeGroupE (op : Word) : Decoded :=
  if fieldKK op = 0x9E#8 then .instr (.skp (fieldX op))
  else if fieldKK op = 0xA1#8 then .instr (.sknp (fieldX op))
  else .nop .keySubcode

/-- Group 0xF: `kk` selects the operation (R86). -/
def decodeGroupF (op : Word) : Decoded :=
  if fieldKK op = 0x07#8 then .instr (.ldVxDT (fieldX op))
  else if fieldKK op = 0x0A#8 then .instr (.ldVxK (fieldX op))
  else if fieldKK op = 0x15#8 then .instr (.ldDTVx (fieldX op))
  else if fieldKK op = 0x18#8 then .instr (.ldSTVx (fieldX op))
  else if fieldKK op = 0x1E#8 then .instr (.addI (fieldX op))
  else if fieldKK op = 0x29#8 then .instr (.ldF (fieldX op))
  else if fieldKK op = 0x33#8 then .instr (.ldB (fieldX op))
  else if fieldKK op = 0x55#8 then .instr (.storeRegs (fieldX op))
  else if fieldKK op = 0x65#8 then .instr (.loadRegs (fieldX op))
  else .nop .fSubcode

/-- A group-5 or group-9 word is the register skip when `n` is 0, or always under `ignore` (R88). -/
def skipRegMatches (mode : SkipLowNibble) (op : Word) : Bool :=
  fieldN op == 0#4 || mode == .ignore

/-- The decoder of an instance: the table of R83 keyed by the top nibble and the sub-fields. -/
def decode (cfg : Config) (op : Word) : Decoded :=
  match (fieldC op).toNat with
  | 0x0 => decodeGroup0 cfg.layout op
  | 0x1 => .instr (.jp (fieldNNN op))
  | 0x2 => .instr (.call (fieldNNN op))
  | 0x3 => .instr (.seImm (fieldX op) (fieldKK op))
  | 0x4 => .instr (.sneImm (fieldX op) (fieldKK op))
  | 0x5 => if skipRegMatches cfg.skipLowNibble op then .instr (.seReg (fieldX op) (fieldY op)) else .nop .skipLowNibble
  | 0x6 => .instr (.ldImm (fieldX op) (fieldKK op))
  | 0x7 => .instr (.addImm (fieldX op) (fieldKK op))
  | 0x8 => decodeGroup8 op
  | 0x9 => if skipRegMatches cfg.skipLowNibble op then .instr (.sneReg (fieldX op) (fieldY op)) else .nop .skipLowNibble
  | 0xA => .instr (.ldI (fieldNNN op))
  | 0xB => .instr (.jpV0 (fieldNNN op))
  | 0xC => .instr (.rnd (fieldX op) (fieldKK op))
  | 0xD => .instr (.drw (fieldX op) (fieldY op) (fieldN op))
  | 0xE => decodeGroupE op
  | _ => decodeGroupF op

/-- The opcode of two fetched bytes, the first one high (20_memory.md R61). -/
def opcodeOfBytes (hi lo : Byte) : Word := hi ++ lo

/-- The first and second byte of an opcode as memory holds it (20_memory.md R61). -/
def opcodeHi (op : Word) : Byte := op.extractLsb' 8 8

/-- See `opcodeHi`. -/
def opcodeLo (op : Word) : Byte := op.extractLsb' 0 8

/-- The decoder on the two bytes at the program counter. -/
def decodeBytes (cfg : Config) (hi lo : Byte) : Decoded := decode cfg (opcodeOfBytes hi lo)

/-- The host's question: the instruction read from a table word under the default parameters. Every instruction is one
16-bit word (R91). -/
def decodeTableWord (nbits w : Nat) : Option Instr :=
  let op : Word := BitVec.ofNat 16 (w % 2 ^ nbits)
  match decodeBytes Machine.defaultConfig (opcodeHi op) (opcodeLo op) with
  | .instr i => some i
  | .nop _ => none

/-- The layout of groups 1, 2, A and B: `c nnn` (R80). -/
def wordNNN (c : BitVec 4) (nnn : Addr) : Word := c ++ nnn

/-- The layout of groups 3, 4, 6, 7, C, E and F: `c x kk` (R80). -/
def wordXKK (c : BitVec 4) (x : Reg) (kk : Byte) : Word := c ++ (x ++ kk)

/-- The layout of groups 5, 8, 9 and D: `c x y n` (R80). -/
def wordXYN (c : BitVec 4) (x y : Reg) (n : BitVec 4) : Word := c ++ (x ++ (y ++ n))

/-- The word of sub-code `n` of the multiplayer block: `MP_BASE + n` (00_scope.md R6). -/
def mpWord (l : Layout) (n : Nat) : Word := BitVec.ofNat 16 (l.mpBase + n)

/-- The encoder: the word of each instruction by the table of R83. -/
def encode (l : Layout) : Instr → Word
  | .cls => 0x00E0#16
  | .ret => 0x00EE#16
  | .sync => mpWord l 0
  | .player1 => mpWord l 1
  | .player2 => mpWord l 2
  | .player3 => mpWord l 3
  | .player4 => mpWord l 4
  | .player5 => mpWord l 5
  | .player6 => mpWord l 6
  | .player7 => mpWord l 7
  | .player8 => mpWord l 8
  | .player9 => mpWord l 9
  | .player10 => mpWord l 10
  | .player11 => mpWord l 11
  | .player12 => mpWord l 12
  | .player13 => mpWord l 13
  | .player14 => mpWord l 14
  | .player15 => mpWord l 15
  | .shared => BitVec.ofNat 16 l.mpShared
  | .jp nnn => wordNNN 0x1#4 nnn
  | .call nnn => wordNNN 0x2#4 nnn
  | .seImm x kk => wordXKK 0x3#4 x kk
  | .sneImm x kk => wordXKK 0x4#4 x kk
  | .seReg x y => wordXYN 0x5#4 x y 0x0#4
  | .ldImm x kk => wordXKK 0x6#4 x kk
  | .addImm x kk => wordXKK 0x7#4 x kk
  | .ldReg x y => wordXYN 0x8#4 x y 0x0#4
  | .orReg x y => wordXYN 0x8#4 x y 0x1#4
  | .andReg x y => wordXYN 0x8#4 x y 0x2#4
  | .xorReg x y => wordXYN 0x8#4 x y 0x3#4
  | .addReg x y => wordXYN 0x8#4 x y 0x4#4
  | .subReg x y => wordXYN 0x8#4 x y 0x5#4
  | .shrReg x y => wordXYN 0x8#4 x y 0x6#4
  | .subnReg x y => wordXYN 0x8#4 x y 0x7#4
  | .shlReg x y => wordXYN 0x8#4 x y 0xE#4
  | .sneReg x y => wordXYN 0x9#4 x y 0x0#4
  | .ldI nnn => wordNNN 0xA#4 nnn
  | .jpV0 nnn => wordNNN 0xB#4 nnn
  | .rnd x kk => wordXKK 0xC#4 x kk
  | .drw x y n => wordXYN 0xD#4 x y n
  | .skp x => wordXKK 0xE#4 x 0x9E#8
  | .sknp x => wordXKK 0xE#4 x 0xA1#8
  | .ldVxDT x => wordXKK 0xF#4 x 0x07#8
  | .ldVxK x => wordXKK 0xF#4 x 0x0A#8
  | .ldDTVx x => wordXKK 0xF#4 x 0x15#8
  | .ldSTVx x => wordXKK 0xF#4 x 0x18#8
  | .addI x => wordXKK 0xF#4 x 0x1E#8
  | .ldF x => wordXKK 0xF#4 x 0x29#8
  | .ldB x => wordXKK 0xF#4 x 0x33#8
  | .storeRegs x => wordXKK 0xF#4 x 0x55#8
  | .loadRegs x => wordXKK 0xF#4 x 0x65#8

/-- A row of the table of R83: an encoding matches it when `op & mask = value`. -/
structure TableRow where
  value : Word
  mask : Word
  deriving DecidableEq, Repr

/-- The row's test of R83. -/
def TableRow.isRowOf (r : TableRow) (op : Word) : Bool := op &&& r.mask == r.value

/-- A row with the instruction it gives for a word. -/
def rowOf (value mask : Word) (meaning : Word → Instr) : TableRow × (Word → Instr) := (⟨value, mask⟩, meaning)

/-- The rows of group 0, each with the instruction it stands for. -/
def opcodeMapGroup0 (l : Layout) : List (TableRow × (Word → Instr)) :=
  [rowOf 0x00E0#16 0xFFFF#16 fun _ => .cls, rowOf 0x00EE#16 0xFFFF#16 fun _ => .ret]
  ++ [rowOf (mpWord l 0) 0xFFFF#16 fun _ => .sync, rowOf (mpWord l 1) 0xFFFF#16 fun _ => .player1,
    rowOf (mpWord l 2) 0xFFFF#16 fun _ => .player2, rowOf (mpWord l 3) 0xFFFF#16 fun _ => .player3,
    rowOf (mpWord l 4) 0xFFFF#16 fun _ => .player4, rowOf (mpWord l 5) 0xFFFF#16 fun _ => .player5,
    rowOf (mpWord l 6) 0xFFFF#16 fun _ => .player6, rowOf (mpWord l 7) 0xFFFF#16 fun _ => .player7]
  ++ [rowOf (mpWord l 8) 0xFFFF#16 fun _ => .player8, rowOf (mpWord l 9) 0xFFFF#16 fun _ => .player9,
    rowOf (mpWord l 10) 0xFFFF#16 fun _ => .player10, rowOf (mpWord l 11) 0xFFFF#16 fun _ => .player11,
    rowOf (mpWord l 12) 0xFFFF#16 fun _ => .player12, rowOf (mpWord l 13) 0xFFFF#16 fun _ => .player13,
    rowOf (mpWord l 14) 0xFFFF#16 fun _ => .player14, rowOf (mpWord l 15) 0xFFFF#16 fun _ => .player15]
  ++ [rowOf (BitVec.ofNat 16 l.mpShared) 0xFFFF#16 fun _ => .shared]

/-- The rows that take an address, `nnn = op[11:0]`. -/
def opcodeMapNNN : List (TableRow × (Word → Instr)) :=
  [rowOf 0x1000#16 0xF000#16 fun op => .jp (op.extractLsb' 0 12),
    rowOf 0x2000#16 0xF000#16 fun op => .call (op.extractLsb' 0 12),
    rowOf 0xA000#16 0xF000#16 fun op => .ldI (op.extractLsb' 0 12),
    rowOf 0xB000#16 0xF000#16 fun op => .jpV0 (op.extractLsb' 0 12)]

/-- The rows that take a register `x = op[11:8]` and a byte `kk = op[7:0]`. -/
def opcodeMapXKK : List (TableRow × (Word → Instr)) :=
  [rowOf 0x3000#16 0xF000#16 fun op => .seImm (op.extractLsb' 8 4) (op.extractLsb' 0 8),
    rowOf 0x4000#16 0xF000#16 fun op => .sneImm (op.extractLsb' 8 4) (op.extractLsb' 0 8),
    rowOf 0x6000#16 0xF000#16 fun op => .ldImm (op.extractLsb' 8 4) (op.extractLsb' 0 8),
    rowOf 0x7000#16 0xF000#16 fun op => .addImm (op.extractLsb' 8 4) (op.extractLsb' 0 8),
    rowOf 0xC000#16 0xF000#16 fun op => .rnd (op.extractLsb' 8 4) (op.extractLsb' 0 8)]

/-- The rows that take the registers `x = op[11:8]` and `y = op[7:4]`, and DRW with `n = op[3:0]`. -/
def opcodeMapXY : List (TableRow × (Word → Instr)) :=
  [rowOf 0x5000#16 0xF00F#16 fun op => .seReg (op.extractLsb' 8 4) (op.extractLsb' 4 4),
    rowOf 0x8000#16 0xF00F#16 fun op => .ldReg (op.extractLsb' 8 4) (op.extractLsb' 4 4),
    rowOf 0x8001#16 0xF00F#16 fun op => .orReg (op.extractLsb' 8 4) (op.extractLsb' 4 4),
    rowOf 0x8002#16 0xF00F#16 fun op => .andReg (op.extractLsb' 8 4) (op.extractLsb' 4 4),
    rowOf 0x8003#16 0xF00F#16 fun op => .xorReg (op.extractLsb' 8 4) (op.extractLsb' 4 4),
    rowOf 0x8004#16 0xF00F#16 fun op => .addReg (op.extractLsb' 8 4) (op.extractLsb' 4 4)]
  ++ [rowOf 0x8005#16 0xF00F#16 fun op => .subReg (op.extractLsb' 8 4) (op.extractLsb' 4 4),
    rowOf 0x8006#16 0xF00F#16 fun op => .shrReg (op.extractLsb' 8 4) (op.extractLsb' 4 4),
    rowOf 0x8007#16 0xF00F#16 fun op => .subnReg (op.extractLsb' 8 4) (op.extractLsb' 4 4),
    rowOf 0x800E#16 0xF00F#16 fun op => .shlReg (op.extractLsb' 8 4) (op.extractLsb' 4 4),
    rowOf 0x9000#16 0xF00F#16 fun op => .sneReg (op.extractLsb' 8 4) (op.extractLsb' 4 4),
    rowOf 0xD000#16 0xF000#16 fun op => .drw (op.extractLsb' 8 4) (op.extractLsb' 4 4) (op.extractLsb' 0 4)]

/-- The rows that take a register `x = op[11:8]`. -/
def opcodeMapX : List (TableRow × (Word → Instr)) :=
  [rowOf 0xE09E#16 0xF0FF#16 fun op => .skp (op.extractLsb' 8 4),
    rowOf 0xE0A1#16 0xF0FF#16 fun op => .sknp (op.extractLsb' 8 4),
    rowOf 0xF007#16 0xF0FF#16 fun op => .ldVxDT (op.extractLsb' 8 4),
    rowOf 0xF00A#16 0xF0FF#16 fun op => .ldVxK (op.extractLsb' 8 4),
    rowOf 0xF015#16 0xF0FF#16 fun op => .ldDTVx (op.extractLsb' 8 4),
    rowOf 0xF018#16 0xF0FF#16 fun op => .ldSTVx (op.extractLsb' 8 4)]
  ++ [rowOf 0xF01E#16 0xF0FF#16 fun op => .addI (op.extractLsb' 8 4),
    rowOf 0xF029#16 0xF0FF#16 fun op => .ldF (op.extractLsb' 8 4),
    rowOf 0xF033#16 0xF0FF#16 fun op => .ldB (op.extractLsb' 8 4),
    rowOf 0xF055#16 0xF0FF#16 fun op => .storeRegs (op.extractLsb' 8 4),
    rowOf 0xF065#16 0xF0FF#16 fun op => .loadRegs (op.extractLsb' 8 4)]

/-- The table of R83 read row by row, each row with the instruction its words stand for: written from the spec's table and
the fields of R80, not from `decode`. -/
def opcodeMap (l : Layout) : List (TableRow × (Word → Instr)) :=
  opcodeMapGroup0 l ++ (opcodeMapNNN ++ (opcodeMapXKK ++ (opcodeMapXY ++ opcodeMapX)))

/-- The match and mask columns of R83. -/
def tableRows (l : Layout) : List TableRow := (opcodeMap l).map Prod.fst

end Sys2Proof
end

