-- ==== Sys2Proof/Machine/State.lean ====
section
/-! DEFINITION. The state of the engine (spec/10_state.md), as plain data, and its value after reset (R45). -/

namespace Sys2Proof.Machine

/-- One boolean per key, 0x0..0xF (R28, R42). -/
abbrev Keys := Vector Bool 16

/-- The phases of the key wait (R30). -/
inductive WaitPhase where
  | press
  | release
  deriving DecidableEq, Repr

/-- The output events of R40. An update carries the display it sends (44_index_random_draw.md R175). -/
inductive Event where
  | surfaceClear
  | surfaceUpdate (display : List Host.Cell)
  | toneStart
  | toneStop
  | notifyArrival
  deriving DecidableEq, Repr

/-- What an operation returns to the host (R43, decision D27); `none` before any cycle or load has returned. -/
inductive Status where
  | none
  | halted
  | blockedBarrier
  | blockedKey
  | executed
  | loadRejected (len : Nat)
  deriving DecidableEq, Repr

/-- The inputs a cycle samples (R42). -/
structure Inputs where
  /-- The key sources: entry 0 is the shared source, entry `p` is player `p`'s (R31: "0 = shared"). -/
  keys : Vector Keys 16
  /-- The coordinator's `isBarrierComplete()`. -/
  barrierComplete : Bool
  /-- The coordinator's `playerCount()`. -/
  playerCount : Nat
  deriving DecidableEq, Repr

/-- The host's five operations with their inputs (R41). -/
inductive HostOp where
  | cycle (inp : Inputs)
  | tick
  | reset (seed : Option Nat)
  | load (image : List Byte) (seed : Option Nat)
  | ackDraw
  deriving DecidableEq, Repr

/-- The engine: the fields of `MachineState` (R20), the generator, the instance's parameters, and the ports. -/
structure State where
  /-- `V[0x0]`..`V[0xF]` (R21). -/
  v : Vector Byte 16
  /-- `I` (R23). -/
  index : Word
  /-- The program counter (R24). -/
  pc : Word
  /-- The return addresses (R25). -/
  stack : Vector Word 16
  /-- How many entries of `stack` are in use, 0..16 (R25). -/
  sp : Fin 17
  /-- R29. -/
  delayTimer : Byte
  /-- R29. -/
  soundTimer : Byte
  /-- `memory` (R26): the bytes that differ from `memoryAtReset`, addresses strictly rising. -/
  mem : List Host.Cell
  /-- `display` (R27): the pixel bytes that differ from `displayAtReset`, positions strictly rising. -/
  display : List Host.Cell
  /-- The last refreshed key snapshot (R28). -/
  keyState : Keys
  /-- The key wait is armed (R30). -/
  waitingForKey : Bool
  /-- R30. -/
  waitingPhase : WaitPhase
  /-- R30. -/
  waitingTrackedKey : BitVec 4
  /-- R30. -/
  waitingTargetRegister : Reg
  /-- 0 for the shared source, 1..15 for a player (R31). -/
  activePlayer : BitVec 4
  /-- The sync barrier blocks (R31). -/
  syncBarrier : Bool
  /-- A repaint is due (R32). -/
  drawFlag : Bool
  /-- Terminal (R32). -/
  halted : Bool
  /-- The generator's state, below 2 to the power of its width (R34). -/
  rng : Nat
  /-- The instance's parameters (00_scope.md R6). -/
  cfg : Config
  /-- The inputs the host presents (R42). -/
  inputs : Inputs
  /-- The host operations not yet performed, the next one first; with none left the host calls `cycle` (R41). -/
  script : List HostOp
  /-- The events emitted so far, oldest first (R40). -/
  events : List Event
  /-- What the last cycle or load returned (R43). -/
  status : Status
  /-- The model's own counter of time-derived seeds drawn (`Config.freeSeed`). -/
  seedDraws : Nat
  deriving DecidableEq, Repr

/-- Why a step has no successor state. -/
inductive Fault where
  /-- Raised by cycle step 3 when a coordinator is attached and the active player's id is not in 1..playerCount()
  (60_exceptions.md R222). Safe: the spec itself gives the cycle no successor. -/
  | invalidPlayerId (id : BitVec 4)
  deriving DecidableEq, Repr

/-- Why the model gives no meaning. -/
inductive Refusal where
  /-- Raised by an arm of `exec` whose instruction has no meaning yet; no arm of this model does so. Safe. -/
  | notModelled (mnemonic : String)
  /-- Raised by the debug surface's sampling for a rectangle that leaves the display (93_implementation_defined.md U17);
  no step raises it. Safe: nothing is claimed there. -/
  | sampleOutsideDisplay
  deriving DecidableEq, Repr

/-- No key pressed and no answer from a coordinator (DESIGN CHOICE, notes/assumptions/24.md). -/
def Inputs.idle : Inputs where
  keys := Vector.replicate 16 (Vector.replicate 16 false)
  barrierComplete := false
  playerCount := 0

/-- The state right after `reset(0)` on an instance with the default parameters (R45, 70_reset_and_hazards.md R250).
The seed 0 is a DESIGN CHOICE (notes/assumptions/21.md). -/
def State.reset : State where
  v := Vector.replicate 16 0#8
  index := 0#16
  pc := 0x200#16
  stack := Vector.replicate 16 0#16
  sp := 0
  delayTimer := 0#8
  soundTimer := 0#8
  mem := []
  display := []
  keyState := Vector.replicate 16 false
  waitingForKey := false
  waitingPhase := .press
  waitingTrackedKey := 0#4
  waitingTargetRegister := 0#4
  activePlayer := 0#4
  syncBarrier := false
  drawFlag := false
  halted := false
  rng := 0
  cfg := defaultConfig
  inputs := Inputs.idle
  script := []
  events := []
  status := .none
  seedDraws := 0

end Sys2Proof.Machine
end

