-- ==== Sys2Proof/Machine/Ops.lean ====
section
/-! DEFINITION. The named operations over memory, display, registers, stack and ports (spec/00_scope.md R9,
spec/20_memory.md). The engine has no exceptions to take: what it has is the terminal halt (60_exceptions.md R220), the
operation `State.halt` below, and nothing returns from it (R227). -/

namespace Sys2Proof.Machine

/-! ## Byte stores: the canonical lists behind `mem` and `display` -/

/-- The byte at `a`: the listed one, or what an unlisted place reads as. -/
def cellsRead (unlisted : Nat → Byte) (m : List Host.Cell) (a : Nat) : Byte :=
  match m with
  | [] => unlisted a
  | c :: rest => if c.1 = a then c.2 else cellsRead unlisted rest a

/-- The list without its entries for `a`. -/
def cellsErase (m : List Host.Cell) (a : Nat) : List Host.Cell := m.filter fun c => c.1 != a

/-- The list with `(a, b)` before the first higher address. -/
def cellsInsert (m : List Host.Cell) (a : Nat) (b : Byte) : List Host.Cell :=
  match m with
  | [] => [(a, b)]
  | c :: rest => if a < c.1 then (a, b) :: c :: rest else c :: cellsInsert rest a b

/-- Write one byte, keeping the canonical form: a byte equal to what the place reads as unlisted is not listed. -/
def cellsWrite (unlisted : Nat → Byte) (m : List Host.Cell) (a : Nat) (b : Byte) : List Host.Cell :=
  if b = unlisted a then cellsErase m a else cellsInsert (cellsErase m a) a b

/-- The canonical form: addresses strictly rising and below `size`, no entry equal to what its place reads as unlisted. -/
abbrev cellsCanonical (unlisted : Nat → Byte) (size : Nat) (m : List Host.Cell) : Prop :=
  m.Pairwise (fun c d => c.1 < d.1) ∧ ∀ c ∈ m, c.1 < size ∧ c.2 ≠ unlisted c.1

/-! ## Memory -/

/-- MEM_SIZE (00_scope.md R6). -/
def memSize : Nat := 4096

/-- The canonical form of `mem` of an instance with a layout. -/
abbrev Memory.wf (l : Layout) (m : List Host.Cell) : Prop := cellsCanonical (memoryAtReset l) memSize m

/-- 12-bit address arithmetic: an address taken mod 4096 (20_memory.md R62). -/
def wrap12 (a : Word) : Word := a % 0x1000#16

/-- `a +12 b` (00_scope.md R9). -/
def add12 (a b : Word) : Word := wrap12 (a + b)

/-- `MemRead(a, 1)` (00_scope.md R9). -/
def State.readByte (s : State) (a : Word) : Byte :=
  cellsRead (memoryAtReset s.cfg.layout) s.mem (wrap12 a).toNat

/-- `MemWrite(a, 1, b)` (00_scope.md R9). -/
def State.writeByte (s : State) (a : Word) (b : Byte) : State :=
  { s with mem := cellsWrite (memoryAtReset s.cfg.layout) s.mem (wrap12 a).toNat b }

/-- The opcode at `pc`, high byte first (20_memory.md R61). -/
def State.fetchOpcode (s : State) : Word :=
  opcodeOfBytes (s.readByte s.pc) (s.readByte (add12 s.pc 1#16))

/-! ## Registers -/

/-- `VF`, the flags register (10_state.md R22). -/
def VF : Reg := 0xF#4

/-- `V[r]` (00_scope.md R9). -/
def State.reg (s : State) (r : Reg) : Byte := s.v[r.toNat]'r.isLt

/-- `V[r] <- b` (00_scope.md R9). -/
def State.setReg (s : State) (r : Reg) (b : Byte) : State := { s with v := s.v.set r.toNat b r.isLt }

/-- `pc <- a`. -/
def State.setPc (s : State) (a : Word) : State := { s with pc := a }

/-- `I <- a`. -/
def State.setIndex (s : State) (a : Word) : State := { s with index := a }

/-- The taken skip, and the fetch's advance: `pc <- (pc + 2) mod 4096` (42_skip.md R140, 40_cycle.md R110). -/
def State.advancePc (s : State) : State := s.setPc (add12 s.pc 2#16)

/-- `if b: Skip()` (42_skip.md R140). -/
def State.skipIf (s : State) (b : Bool) : State := if b then s.advancePc else s

/-! ## The stack, the halt and the events -/

/-- `stack[sp] <- a; sp <- sp + 1` on a stack that is not full (10_state.md R25). -/
def State.push (s : State) (a : Word) (h : s.sp.val < 16) : State :=
  { s with stack := s.stack.set s.sp.val a h, sp := ⟨s.sp.val + 1, by omega⟩ }

/-- The entry a pop reads, `stack[sp - 1]`, on a stack that is not empty (10_state.md R25). -/
def State.top (s : State) (h : 0 < s.sp.val) : Word :=
  s.stack[s.sp.val - 1]'(by have := s.sp.isLt; omega)

/-- `sp <- sp - 1`; the popped entry is not cleared (10_state.md R25, decision D16). -/
def State.dropTop (s : State) : State :=
  { s with sp := ⟨s.sp.val - 1, by have := s.sp.isLt; omega⟩ }

/-- `halt()`: the terminal halt, and no other change (60_exceptions.md R220). -/
def State.halt (s : State) : State := { s with halted := true }

/-- `emit e` (00_scope.md R9). -/
def State.emit (s : State) (e : Event) : State := { s with events := s.events ++ [e] }

/-! ## The display -/

/-- Pixels of the display, DISP_W x DISP_H (00_scope.md R6). -/
def displaySize : Nat := 2048

/-- The canonical form of `display`. -/
abbrev Display.wf (d : List Host.Cell) : Prop := cellsCanonical displayAtReset displaySize d

/-- The place of the pixel at a column and a row (10_state.md R27). -/
def pixelIndex (col row : Nat) : Nat := row * 64 + col

/-- The byte of the pixel at a column and a row. -/
def pixelOf (d : List Host.Cell) (col row : Nat) : Byte := cellsRead displayAtReset d (pixelIndex col row)

/-- The byte of the pixel at a column (0..63) and a row (0..31) (10_state.md R27). -/
def State.pixel (s : State) (col row : Nat) : Byte := pixelOf s.display col row

/-- What a draw carries along: the display and the collision seen so far (44_index_random_draw.md R173). -/
structure DrawState where
  display : List Host.Cell
  collision : Bool
  deriving DecidableEq, Repr

/-- XOR one set sprite bit into the pixel at a column and a row that are in bounds (R173). -/
def DrawState.toggle (d : DrawState) (col row : Nat) : DrawState where
  display := cellsWrite displayAtReset d.display (pixelIndex col row) (pixelOf d.display col row ^^^ 1#8)
  collision := d.collision || pixelOf d.display col row == 1#8

/-- One bit of a sprite row: clipped past column 63, not drawn where it is 0; bit 7 is the leftmost (R173). -/
def DrawState.drawBit (d : DrawState) (x0 row : Nat) (b : Byte) (c : Nat) : DrawState :=
  if 63 < x0 + c then d else if b.getLsbD (7 - c) then d.toggle (x0 + c) row else d

/-- One sprite row, clipped past row 31 (R173). -/
def DrawState.drawRow (d : DrawState) (x0 row : Nat) (b : Byte) : DrawState :=
  if 31 < row then d else (List.range 8).foldl (fun d c => d.drawBit x0 row b c) d

/-- The first `n` rows of the sprite whose row `r` is the byte `sprite r`, at (`x0`, `y0`) (R173). -/
def drawSprite (display : List Host.Cell) (x0 y0 : Nat) (sprite : Nat → Byte) (n : Nat) : DrawState :=
  (List.range n).foldl (fun d r => d.drawRow x0 (y0 + r) (sprite r)) ⟨display, false⟩

/-! ## The generator -/

/-- The generator's next state (10_state.md R34, 44_index_random_draw.md R171). -/
def prngStep (cfg : Config) (r : Nat) : Nat := (cfg.prngMul * r + cfg.prngInc) % 2 ^ cfg.prngWidth

/-- The output byte of a generator state, by default its bits 31:24 (10_state.md R34, R171). -/
def prngOutput (cfg : Config) (r : Nat) : Byte :=
  match cfg.prngMap with
  | .bits lo => BitVec.ofNat 8 (r / 2 ^ lo)
  | .unknown id => Config.unknownPrngMap id r

/-- `Seed(s)`: the generator's state for a seed (R171). -/
def prngSeed (cfg : Config) (seed : Nat) : Nat := seed % 2 ^ cfg.prngWidth

/-! ## The bulk transfers -/

/-- One transfer of FX55: store a register at `I` and increment `I` (45_fx.md R197). -/
def State.storeOne (s : State) (k : Nat) : State :=
  (s.writeByte s.index (s.reg (BitVec.ofNat 4 k))).setIndex (add12 s.index 1#16)

/-- One transfer of FX65: load a register from `I` and increment `I` (45_fx.md R198). -/
def State.loadOne (s : State) (k : Nat) : State :=
  (s.setReg (BitVec.ofNat 4 k) (s.readByte s.index)).setIndex (add12 s.index 1#16)

/-- The first `n` transfers of FX55 (45_fx.md R197). -/
def State.storeBlock (s : State) (n : Nat) : State := (List.range n).foldl State.storeOne s

/-- The first `n` transfers of FX65 (45_fx.md R198). -/
def State.loadBlock (s : State) (n : Nat) : State := (List.range n).foldl State.loadOne s

end Sys2Proof.Machine
end

