-- ==== Sys2Proof/Machine/Flags.lean ====
section
/-! DEFINITION. The values written to VF (10_state.md R22) and the order of the result and flag writes (43_alu.md R150). -/

namespace Sys2Proof.Machine

/-- A flag as the byte 0 or 1. -/
def flagByte (f : Bool) : Byte := if f then 1#8 else 0#8

/-- ADD: the unmasked sum exceeds 255 (43_alu.md R157). -/
def carryFlag (a b : Byte) : Bool := 255 < a.toNat + b.toNat

/-- SUB and SUBN: the left operand is not below the right one, "not borrow" (43_alu.md R158, R160). -/
def notBorrowFlag (a b : Byte) : Bool := b.toNat ≤ a.toNat

/-- SHR: the bit shifted out on the right (43_alu.md R159). -/
def shiftedOutRight (b : Byte) : Bool := b.getLsbD 0

/-- SHL: the bit shifted out on the left (43_alu.md R161). -/
def shiftedOutLeft (b : Byte) : Bool := b.getLsbD 7

/-- `Write8(r, f)`: the result and the flag, in the order of VF_WRITE_LAST (43_alu.md R150). -/
def State.write8 (s : State) (x : Reg) (r : Byte) (f : Bool) : State :=
  if s.cfg.vfWriteLast then (s.setReg x r).setReg VF (flagByte f) else (s.setReg VF (flagByte f)).setReg x r

/-- OR, AND and XOR: the result, then VF reset to 0 (43_alu.md R150, R154). -/
def State.writeLogic (s : State) (x : Reg) (r : Byte) : State := (s.setReg x r).setReg VF 0#8

end Sys2Proof.Machine
end

