-- ==== Sys2Proof/Machine/Alu.lean ====
section
/-! DEFINITION. Load and add immediate, and the register-to-register ALU (spec/43_alu.md). Both operands are read from the
state before anything is written (R150). -/

namespace Sys2Proof.Machine

/-- 6XKK (R151). -/
def execLdImm (x : Reg) (kk : Byte) (s : State) : Host.Outcome State Fault Refusal :=
  .next (s.setReg x kk)

/-- 7XKK (R152): no flag. -/
def execAddImm (x : Reg) (kk : Byte) (s : State) : Host.Outcome State Fault Refusal :=
  .next (s.setReg x (s.reg x + kk))

/-- 8XY0 (R153). -/
def execLdReg (x y : Reg) (s : State) : Host.Outcome State Fault Refusal :=
  .next (s.setReg x (s.reg y))

/-- 8XY1 (R154). -/
def execOrReg (x y : Reg) (s : State) : Host.Outcome State Fault Refusal :=
  .next (s.writeLogic x (s.reg x ||| s.reg y))

/-- 8XY2 (R155). -/
def execAndReg (x y : Reg) (s : State) : Host.Outcome State Fault Refusal :=
  .next (s.writeLogic x (s.reg x &&& s.reg y))

/-- 8XY3 (R156). -/
def execXorReg (x y : Reg) (s : State) : Host.Outcome State Fault Refusal :=
  .next (s.writeLogic x (s.reg x ^^^ s.reg y))

/-- 8XY4 (R157). -/
def execAddReg (x y : Reg) (s : State) : Host.Outcome State Fault Refusal :=
  .next (s.write8 x (s.reg x + s.reg y) (carryFlag (s.reg x) (s.reg y)))

/-- 8XY5 (R158). -/
def execSubReg (x y : Reg) (s : State) : Host.Outcome State Fault Refusal :=
  .next (s.write8 x (s.reg x - s.reg y) (notBorrowFlag (s.reg x) (s.reg y)))

/-- 8XY6 (R159): the shifted operand is `V[y]`. -/
def execShrReg (x y : Reg) (s : State) : Host.Outcome State Fault Refusal :=
  .next (s.write8 x (s.reg y >>> 1) (shiftedOutRight (s.reg y)))

/-- 8XY7 (R160). -/
def execSubnReg (x y : Reg) (s : State) : Host.Outcome State Fault Refusal :=
  .next (s.write8 x (s.reg y - s.reg x) (notBorrowFlag (s.reg y) (s.reg x)))

/-- 8XYE (R161): the shifted operand is `V[y]`. -/
def execShlReg (x y : Reg) (s : State) : Host.Outcome State Fault Refusal :=
  .next (s.write8 x (s.reg y <<< 1) (shiftedOutLeft (s.reg y)))

end Sys2Proof.Machine
end

