-- ==== Sys2Proof/Machine/Operands.lean ====
section
/-! DEFINITION. The operand forms: immediates (30_encoding.md R82), key numbers (42_skip.md R147), glyph addresses
(45_fx.md R195), decimal digits (45_fx.md R196) and the sprite's start position (44_index_random_draw.md R174). -/

namespace Sys2Proof.Machine

/-- `nnn` as an address, unchanged (30_encoding.md R82). -/
def addrOperand (nnn : Addr) : Word := nnn.setWidth 16

/-- `V[x]` zero-extended for 12-bit address arithmetic (41_flow.md R135, 45_fx.md R194). -/
def offsetOperand (b : Byte) : Word := b.setWidth 16

/-- Is key `k` pressed in a snapshot? -/
def keyAt (keys : Keys) (k : BitVec 4) : Bool := keys[k.toNat]'k.isLt

/-- `KeyPressed(v)` (42_skip.md R147), on the cycle's snapshot. -/
def State.keyPressed (s : State) (b : Byte) : Bool :=
  match s.cfg.keyIndexMode with
  | .mask => keyAt s.keyState (b.setWidth 4)
  | .oorReleased => b.toNat ≤ 15 && keyAt s.keyState (b.setWidth 4)

/-- The lowest pressed key, if any (40_cycle.md R106). -/
def lowestPressed (keys : Keys) : Option (BitVec 4) :=
  ((List.range 16).map (BitVec.ofNat 4)).find? (keyAt keys)

/-- The glyph of a register's low nibble: `FONT_BASE + 5 * (b & 0xF)` mod 4096 (45_fx.md R195). -/
def glyphAddress (l : Layout) (b : Byte) : Word := wrap12 (BitVec.ofNat 16 (l.fontBase + 5 * (b.toNat % 16)))

/-- The hundreds digit (45_fx.md R196). -/
def bcdHundreds (b : Byte) : Byte := BitVec.ofNat 8 (b.toNat / 100)

/-- The tens digit (45_fx.md R196). -/
def bcdTens (b : Byte) : Byte := BitVec.ofNat 8 (b.toNat / 10 % 10)

/-- The ones digit (45_fx.md R196). -/
def bcdOnes (b : Byte) : Byte := BitVec.ofNat 8 (b.toNat % 10)

/-- The start column of a draw (44_index_random_draw.md R174 item 1). -/
def drawColumn (b : Byte) : Nat := b.toNat % 64

/-- The start row of a draw (44_index_random_draw.md R174 item 1). -/
def drawRowOf (b : Byte) : Nat := b.toNat % 32

/-- Row `r` of the sprite at `I` (44_index_random_draw.md R174 item 5). -/
def State.spriteByte (s : State) (r : Nat) : Byte := s.readByte (add12 s.index (BitVec.ofNat 16 r))

end Sys2Proof.Machine
end

