-- ==== Sys2Proof/Machine/Flow.lean ====
section
/-! DEFINITION. Clear, return, jump and call (spec/41_flow.md), and the no-op of an unmatched word (30_encoding.md R89).
Every meaning runs on the post-fetch state: `pc` already holds the instruction's address plus 2 (40_cycle.md R110). -/

namespace Sys2Proof.Machine

/-- 00E0 (R130). -/
def execCls (s : State) : Host.Outcome State Fault Refusal :=
  .next (State.emit { s with display := [], drawFlag := true } .surfaceClear)

/-- 00EE (R131); on an empty stack the terminal halt (60_exceptions.md R220). -/
def execRet (s : State) : Host.Outcome State Fault Refusal :=
  if h : 0 < s.sp.val then .next (s.dropTop.setPc (wrap12 (s.top h))) else .next s.halt

/-- 1NNN (R132). -/
def execJp (nnn : Addr) (s : State) : Host.Outcome State Fault Refusal :=
  .next (s.setPc (addrOperand nnn))

/-- 2NNN (R133); on a full stack the terminal halt (60_exceptions.md R220). -/
def execCall (nnn : Addr) (s : State) : Host.Outcome State Fault Refusal :=
  if h : s.sp.val < 16 then .next ((s.push s.pc h).setPc (addrOperand nnn)) else .next s.halt

/-- BNNN (R135): the offset is always `V[0]`. -/
def execJpV0 (nnn : Addr) (s : State) : Host.Outcome State Fault Refusal :=
  .next (s.setPc (add12 (addrOperand nnn) (offsetOperand (s.reg 0#4))))

/-- A word that matches no row (30_encoding.md R89, 46_multiplayer.md R213): nothing beyond the fetch. -/
def execNop (s : State) : Host.Outcome State Fault Refusal := .next s

end Sys2Proof.Machine
end

