-- ==== Sys2Proof/Machine/Fx.lean ====
section
/-! DEFINITION. Group F: timers, key wait, index, glyph, decimal store and bulk transfers (spec/45_fx.md). -/

namespace Sys2Proof.Machine

/-- FX07 (R190). -/
def execLdVxDT (x : Reg) (s : State) : Host.Outcome State Fault Refusal :=
  .next (s.setReg x s.delayTimer)

/-- FX0A (R191): it only arms the key wait; the cycles that follow run it (40_cycle.md R105 to R107). -/
def execLdVxK (x : Reg) (s : State) : Host.Outcome State Fault Refusal :=
  .next { s with waitingForKey := true, waitingPhase := .press, waitingTargetRegister := x }

/-- FX15 (R192). -/
def execLdDTVx (x : Reg) (s : State) : Host.Outcome State Fault Refusal :=
  .next { s with delayTimer := s.reg x }

/-- FX18 (R193): a nonzero value starts the tone; 0 emits nothing (decision D18). -/
def execLdSTVx (x : Reg) (s : State) : Host.Outcome State Fault Refusal :=
  if s.reg x = 0#8 then .next { s with soundTimer := s.reg x }
  else .next (State.emit { s with soundTimer := s.reg x } .toneStart)

/-- FX1E (R194): VF is unchanged. -/
def execAddI (x : Reg) (s : State) : Host.Outcome State Fault Refusal :=
  .next (s.setIndex (add12 s.index (offsetOperand (s.reg x))))

/-- FX29 (R195). -/
def execLdF (x : Reg) (s : State) : Host.Outcome State Fault Refusal :=
  .next (s.setIndex (glyphAddress s.cfg.layout (s.reg x)))

/-- FX33 (R196): `I` is unchanged (decision D29). -/
def execLdB (x : Reg) (s : State) : Host.Outcome State Fault Refusal :=
  .next (((s.writeByte s.index (bcdHundreds (s.reg x))).writeByte (add12 s.index 1#16) (bcdTens (s.reg x))).writeByte
    (add12 s.index 2#16) (bcdOnes (s.reg x)))

/-- FX55 (R197). -/
def execStoreRegs (x : Reg) (s : State) : Host.Outcome State Fault Refusal :=
  .next (s.storeBlock (x.toNat + 1))

/-- FX65 (R198). -/
def execLoadRegs (x : Reg) (s : State) : Host.Outcome State Fault Refusal :=
  .next (s.loadBlock (x.toNat + 1))

end Sys2Proof.Machine
end

