-- ==== Sys2Proof/Machine/IndexRandomDraw.lean ====
section
/-! DEFINITION. Index load, random byte and draw (spec/44_index_random_draw.md). -/

namespace Sys2Proof.Machine

/-- ANNN (R170). -/
def execLdI (nnn : Addr) (s : State) : Host.Outcome State Fault Refusal :=
  .next (s.setIndex (addrOperand nnn))

/-- CXKK (R172): exactly one `Next()`, also when `kk` is 0. -/
def execRnd (x : Reg) (kk : Byte) (s : State) : Host.Outcome State Fault Refusal :=
  .next (State.setReg { s with rng := prngStep s.cfg s.rng } x (prngOutput s.cfg (prngStep s.cfg s.rng) &&& kk))

/-- DXYN (R173, R174): the coordinates are latched before VF is written (decision D11). -/
def execDrw (x y : Reg) (n : BitVec 4) (s : State) : Host.Outcome State Fault Refusal :=
  let d := drawSprite s.display (drawColumn (s.reg x)) (drawRowOf (s.reg y)) s.spriteByte n.toNat
  .next ((State.setReg { s with display := d.display, drawFlag := true } VF (flagByte d.collision)).emit
    (.surfaceUpdate d.display))

end Sys2Proof.Machine
end

