-- ==== Sys2Proof/Machine/Multiplayer.lean ====
section
/-! DEFINITION. The multiplayer extension (spec/46_multiplayer.md). -/

namespace Sys2Proof.Machine

/-- Route key input to a player, or to the shared source for 0 (R211, R212). -/
def State.selectPlayer (s : State) (p : BitVec 4) : State := { s with activePlayer := p }

/-- 0100 (R210): arrive at the sync barrier; the coordinator, where one is attached, is notified. -/
def execSync (s : State) : Host.Outcome State Fault Refusal :=
  if s.cfg.coordPresent then .next (State.emit { s with syncBarrier := true } .notifyArrival)
  else .next { s with syncBarrier := true }

/-- 0101 (R211). -/
def execPlayer1 (s : State) : Host.Outcome State Fault Refusal := .next (s.selectPlayer 1#4)

/-- 0102 (R211). -/
def execPlayer2 (s : State) : Host.Outcome State Fault Refusal := .next (s.selectPlayer 2#4)

/-- 0103 (R211). -/
def execPlayer3 (s : State) : Host.Outcome State Fault Refusal := .next (s.selectPlayer 3#4)

/-- 0104 (R211). -/
def execPlayer4 (s : State) : Host.Outcome State Fault Refusal := .next (s.selectPlayer 4#4)

/-- 0105 (R211). -/
def execPlayer5 (s : State) : Host.Outcome State Fault Refusal := .next (s.selectPlayer 5#4)

/-- 0106 (R211). -/
def execPlayer6 (s : State) : Host.Outcome State Fault Refusal := .next (s.selectPlayer 6#4)

/-- 0107 (R211). -/
def execPlayer7 (s : State) : Host.Outcome State Fault Refusal := .next (s.selectPlayer 7#4)

/-- 0108 (R211). -/
def execPlayer8 (s : State) : Host.Outcome State Fault Refusal := .next (s.selectPlayer 8#4)

/-- 0109 (R211). -/
def execPlayer9 (s : State) : Host.Outcome State Fault Refusal := .next (s.selectPlayer 9#4)

/-- 010A (R211). -/
def execPlayer10 (s : State) : Host.Outcome State Fault Refusal := .next (s.selectPlayer 10#4)

/-- 010B (R211). -/
def execPlayer11 (s : State) : Host.Outcome State Fault Refusal := .next (s.selectPlayer 11#4)

/-- 010C (R211). -/
def execPlayer12 (s : State) : Host.Outcome State Fault Refusal := .next (s.selectPlayer 12#4)

/-- 010D (R211). -/
def execPlayer13 (s : State) : Host.Outcome State Fault Refusal := .next (s.selectPlayer 13#4)

/-- 010E (R211). -/
def execPlayer14 (s : State) : Host.Outcome State Fault Refusal := .next (s.selectPlayer 14#4)

/-- 010F (R211). -/
def execPlayer15 (s : State) : Host.Outcome State Fault Refusal := .next (s.selectPlayer 15#4)

/-- 0110 (R212). -/
def execShared (s : State) : Host.Outcome State Fault Refusal := .next (s.selectPlayer 0#4)

end Sys2Proof.Machine
end

