-- ==== Sys2Proof/Machine/Cycle.lean ====
section
/-! DEFINITION. The execution cycle (spec/40_cycle.md R100): the halt gate, the barrier gate, input-source resolution, the
key wait, and fetch, decode and execute. A cycle samples the inputs the state presents. -/

namespace Sys2Proof.Machine

/-- Return a status to the host (R43, decision D27). -/
def State.report (s : State) (r : Status) : State := { s with status := r }

/-- Step 2 (R102): the barrier is set and an attached coordinator answers that it is not complete. -/
def State.barrierBlocks (s : State) : Bool :=
  s.syncBarrier && s.cfg.coordPresent && !s.inputs.barrierComplete

/-- The player whose source is in use: 0, the shared one, unless a coordinator is attached (R103). -/
def State.sourcePlayer (s : State) : BitVec 4 := if s.cfg.coordPresent then s.activePlayer else 0#4

/-- A player's id is out of range (R103, decision D21). The shared source is always in range. -/
def State.playerOutOfRange (s : State) : Bool :=
  s.sourcePlayer != 0#4 && !(1 ≤ s.sourcePlayer.toNat && s.sourcePlayer.toNat ≤ s.inputs.playerCount)

/-- The 16 keys of the resolved source (R103). -/
def State.sourceKeys (s : State) : Keys := s.inputs.keys[s.sourcePlayer.toNat]'s.sourcePlayer.isLt

/-- Steps 2 and 3 past their gates: the barrier clears and the snapshot is refreshed in full (R102, R104). -/
def State.openGates (s : State) : State := { s with syncBarrier := false, keyState := s.sourceKeys }

/-- Step 4, press phase: track the lowest pressed key (R106). -/
def State.keyPress (s : State) : State :=
  match lowestPressed s.keyState with
  | some k => { s with waitingTrackedKey := k, waitingPhase := .release }
  | none => s

/-- Step 4, release phase: complete the wait when the tracked key is released (R107). -/
def State.keyRelease (s : State) : State :=
  if keyAt s.keyState s.waitingTrackedKey then s
  else
    { s.setReg s.waitingTargetRegister (s.waitingTrackedKey.setWidth 8) with
        waitingForKey := false, waitingPhase := .press }

/-- Step 4 (R105): one step of the key wait. -/
def State.keyWaitStep (s : State) : State :=
  match s.waitingPhase with
  | .press => s.keyPress
  | .release => s.keyRelease

/-- The status of a cycle that executed an instruction (R112). -/
def State.executedStatus (s : State) : Status := if s.halted then .halted else .executed

/-- The end of an executed cycle: the status goes to the host. -/
def finishExecuted (o : Host.Outcome State Fault Refusal) : Host.Outcome State Fault Refusal :=
  match o with
  | .next t => .next (t.report t.executedStatus)
  | .fault r => .fault r
  | .refused r => .refused r

/-- Run what the decoder answered on the post-fetch state (R111, R112). -/
def execDecoded (d : Decoded) (s : State) : Host.Outcome State Fault Refusal :=
  match d with
  | .instr i => exec i s
  | .nop _ => execNop s

/-- Step 5 (R110 to R112): fetch, advance `pc`, decode and execute. -/
def fetchExecute (s : State) : Host.Outcome State Fault Refusal :=
  finishExecuted (execDecoded (decode s.cfg s.fetchOpcode) s.advancePc)

/-- One cycle (R100). The player id is checked before any write, so a faulting cycle leaves nothing behind (R222). -/
def cycle (s : State) : Host.Outcome State Fault Refusal :=
  if s.halted then .next (s.report .halted)
  else if s.barrierBlocks then .next (s.report .blockedBarrier)
  else if s.playerOutOfRange then .fault (.invalidPlayerId s.sourcePlayer)
  else if s.waitingForKey then .next (s.openGates.keyWaitStep.report .blockedKey)
  else fetchExecute s.openGates

end Sys2Proof.Machine
end

