-- ==== Sys2Proof/Machine/HostOps.lean ====
section
/-! DEFINITION. The host's other operations (spec/10_state.md R41): the timer advance (60_exceptions.md R230), reset and
load (70_reset_and_hazards.md R250, R252) and the draw acknowledge (decision D26). -/

namespace Sys2Proof.Machine

/-- One timer, counted down and floored at zero (60_exceptions.md R230). -/
def countDown (b : Byte) : Byte := if b = 0#8 then 0#8 else b - 1#8

/-- `tick` (60_exceptions.md R230, R231): `ToneStop` exactly when the sound timer goes from 1 to 0. -/
def tick (s : State) : State :=
  if s.halted && !s.cfg.tickWhileHalted then s
  else
    let t : State := { s with delayTimer := countDown s.delayTimer, soundTimer := countDown s.soundTimer }
    if s.soundTimer = 1#8 then t.emit .toneStop else t

/-- `Fresh()`: every field of `MachineState` at its reset value (70_reset_and_hazards.md R250), `pc` and memory by the
instance's own layout; the parameters, the ports and the host's side stay. -/
def State.fresh (s : State) : State :=
  { State.reset with
      pc := BitVec.ofNat 16 s.cfg.layout.programOrigin, cfg := s.cfg, inputs := s.inputs, script := s.script,
      events := s.events, seedDraws := s.seedDraws }

/-- Seed the generator: from the seed given, else from a time-derived draw (44_index_random_draw.md R171). -/
def State.seedFrom (s : State) (seed : Option Nat) : State :=
  match seed with
  | some n => { s with rng := prngSeed s.cfg n }
  | none => { s with rng := prngSeed s.cfg (Config.freeSeed s.seedDraws), seedDraws := s.seedDraws + 1 }

/-- `reset(seed?)` (70_reset_and_hazards.md R250). It emits no event and keeps no program (decision D24). -/
def resetOp (seed : Option Nat) (s : State) : State := s.fresh.seedFrom seed

/-- Copy bytes to consecutive addresses, mod 4096 (70_reset_and_hazards.md R252). -/
def State.copyBytes (s : State) (a : Word) (image : List Byte) : State :=
  match image with
  | [] => s
  | b :: rest => (s.writeByte a b).copyBytes (add12 a 1#16) rest

/-- `load(image, seed?)` (70_reset_and_hazards.md R252): an image that is too long is rejected before any change. -/
def loadOp (image : List Byte) (seed : Option Nat) (s : State) : State :=
  if s.cfg.layout.imageFits image.length then
    (resetOp seed s).copyBytes (BitVec.ofNat 16 s.cfg.layout.programOrigin) image
  else s.report (.loadRejected image.length)

/-- `ackDraw` (decision D26). -/
def ackDraw (s : State) : State := { s with drawFlag := false }

/-- One host operation (10_state.md R41). -/
def perform (op : HostOp) (s : State) : Host.Outcome State Fault Refusal :=
  match op with
  | .cycle inp => cycle { s with inputs := inp }
  | .tick => .next (tick s)
  | .reset seed => .next (resetOp seed s)
  | .load image seed => .next (loadOp image seed s)
  | .ackDraw => .next (ackDraw s)

/-- Nothing holds the next cycle back from executing (40_cycle.md R100): no halt, no barrier, no key wait, no pending host
operation, and a key source in range. `pc` and everything else stay. -/
def State.readyToExecute (s : State) : State :=
  let t : State := { s with halted := false, syncBarrier := false, waitingForKey := false, script := [] }
  if t.playerOutOfRange then { t with activePlayer := 0#4 } else t

/-- Store an opcode at `pc`, high byte first (20_memory.md R61). -/
def State.placeOpcode (s : State) (op : Word) : State :=
  (s.writeByte s.pc (opcodeHi op)).writeByte (add12 s.pc 1#16) (opcodeLo op)

end Sys2Proof.Machine
end

