-- ==== Sys2Proof/Machine/Step.lean ====
section
/-! DEFINITION. One step: the host's next operation (spec/10_state.md R41). With none pending, the host calls `cycle` with
the inputs it presents. -/

namespace Sys2Proof.Machine

/-- One step of the machine. -/
def step (s : State) : Host.Outcome State Fault Refusal :=
  match s.script with
  | [] => cycle s
  | op :: rest => perform op { s with script := rest }

/-- The state with a table word placed where the next step fetches it, and nothing pending or blocking before it. -/
def State.withFetchWord (s : State) (nbits w : Nat) : State :=
  s.readyToExecute.placeOpcode (BitVec.ofNat 16 (w % 2 ^ nbits))

end Sys2Proof.Machine
end

