-- ==== Sys2Proof/Machine/Debug.lean ====
section
/-! DEFINITION. What observes the engine from outside: the debug surface (spec/60_exceptions.md R242), the two sinks as they
stand after the emitted events (44_index_random_draw.md R175, 60_exceptions.md R231) and the error tags (R221). -/

namespace Sys2Proof.Machine

/-- The 2048 pixel bytes, row-major (10_state.md R27). -/
def State.pixelBytes (s : State) : List Byte := (List.range displaySize).map (cellsRead displayAtReset s.display)

/-- The content hash: some function of the pixels alone (R242, decision D32). -/
def State.surfaceHash (s : State) : Nat := Config.surfaceHash s.pixelBytes

/-- The ASCII sampling of a rectangle, row by row (R242). The two characters are the caller's, and a rectangle that leaves
the display is refused (93_implementation_defined.md U17). -/
def State.sampleRect (s : State) (on off : Char) (x y w h : Nat) : Except Refusal (List (List Char)) :=
  if x + w ≤ 64 ∧ y + h ≤ 32 then
    .ok ((List.range h).map fun r => (List.range w).map fun c => if s.pixel (x + c) (y + r) = 1#8 then on else off)
  else .error .sampleOutsideDisplay

/-- The tone sink after one event (R231, R235). -/
def toneAfter (playing : Bool) (e : Event) : Bool :=
  match e with
  | .toneStart => true
  | .toneStop => false
  | .surfaceClear => playing
  | .surfaceUpdate _ => playing
  | .notifyArrival => playing

/-- The tone sink after the emitted events, off before the first one. -/
def State.tonePlaying (s : State) : Bool := s.events.foldl toneAfter false

/-- The pixel sink's surface after one event (R175, R234). -/
def surfaceAfter (surface : List Host.Cell) (e : Event) : List Host.Cell :=
  match e with
  | .surfaceClear => []
  | .surfaceUpdate d => d
  | .toneStart => surface
  | .toneStop => surface
  | .notifyArrival => surface

/-- The pixel sink's surface after the emitted events, clear before the first one. -/
def State.sinkSurface (s : State) : List Host.Cell := s.events.foldl surfaceAfter []

/-- The error conditions of 60_exceptions.md R221, under the spec's own tags (decision D34, notes/assumptions/41.md). -/
inductive ErrorTag where
  | stackOverflow
  | stackUnderflow
  | invalidPlayerId (id : BitVec 4)
  | loadRejected (len : Nat)
  deriving DecidableEq, Repr

/-- The codes of R221. -/
def ErrorTag.code (e : ErrorTag) : Nat :=
  match e with
  | .stackOverflow => 1
  | .stackUnderflow => 2
  | .invalidPlayerId _ => 3
  | .loadRejected _ => 4

/-- Why a state is halted, read off `sp`: 16 after an overflow and 0 after an underflow (R221). -/
def State.haltTag (s : State) : Option ErrorTag :=
  if s.halted then
    if s.sp.val = 16 then some .stackOverflow else if s.sp.val = 0 then some .stackUnderflow else none
  else none

/-- The error a state reports right after a load: the rejection in its status (R223). -/
def State.loadTag (t : State) : Option ErrorTag :=
  match t.status with
  | .loadRejected len => some (.loadRejected len)
  | .none => none
  | .halted => none
  | .blockedBarrier => none
  | .blockedKey => none
  | .executed => none

/-- The error a cycle from `s` to `t` raises: the halt, in the cycle that halts (R220). -/
def State.cycleTag (s t : State) : Option ErrorTag := if s.halted then none else t.haltTag

/-- The error the step from `s` raises, by the operation it performs and its outcome (R221): only a load rejects an image,
only a cycle halts or faults, and the other operations raise nothing. -/
def raisedBy (s : State) (o : Host.Outcome State Fault Refusal) : Option ErrorTag :=
  match o with
  | .next t =>
    match s.script with
    | [] => s.cycleTag t
    | .cycle _ :: _ => s.cycleTag t
    | .tick :: _ => none
    | .reset _ :: _ => none
    | .load _ _ :: _ => t.loadTag
    | .ackDraw :: _ => none
  | .fault (.invalidPlayerId id) => some (.invalidPlayerId id)
  | .refused _ => none

end Sys2Proof.Machine
end

