-- ==== Sys2Proof/Safety.lean ====
section
/-! DEFINITION. What counts as a well-formed state, a final state and a safe run, and the words the claims use for what an
instruction writes and leaves alone. -/

namespace Sys2Proof

open Machine

/-- The state invariants of spec/10_state.md R36, R25, R27 and R34, the canonical form of the two byte stores, and parameters
a model may take. `sp` and `activePlayer` keep their ranges by type. -/
structure Inv (s : State) : Prop where
  pc_lt : s.pc.toNat < 4096
  index_lt : s.index.toNat < 4096
  stack_lt : ∀ k : Nat, ∀ h : k < 16, (s.stack[k]'h).toNat < 4096
  mem_wf : Memory.wf s.cfg.layout s.mem
  display_wf : Display.wf s.display
  pixels : ∀ col row : Nat, col < 64 → row < 32 → s.pixel col row = 0#8 ∨ s.pixel col row = 1#8
  rng_lt : s.rng < 2 ^ s.cfg.prngWidth
  cfg_wf : s.cfg.wellFormed = true
  blocking : ¬ (s.syncBarrier = true ∧ s.waitingForKey = true)

/-- A final state (70_reset_and_hazards.md R254): the other final condition, a faulted cycle, has no state. -/
def Final (s : State) : Prop := s.halted = true

/-- A safe run of `k` steps: none of them faults or refuses. -/
def SafeRun : Nat → State → Prop
  | 0, _ => True
  | k + 1, s => ∃ t, step s = .next t ∧ SafeRun k t

/-- Every byte of memory reads as before. -/
def MemSame (s t : State) : Prop := ∀ a : Word, t.readByte a = s.readByte a

/-- Every pixel reads as before. -/
def DisplaySame (s t : State) : Prop := ∀ col row : Nat, col < 64 → row < 32 → t.pixel col row = s.pixel col row

/-- Every register but the listed ones reads as before. -/
def RegsSameBut (xs : List Reg) (s t : State) : Prop := ∀ r : Reg, r ∉ xs → t.reg r = s.reg r

/-- Only `pc` may differ. -/
def OnlyPc (s t : State) : Prop := t = { s with pc := t.pc } ∧ MemSame s t ∧ RegsSameBut [] s t

/-- Only `I` may differ. -/
def OnlyIndex (s t : State) : Prop := t = { s with index := t.index } ∧ MemSame s t ∧ RegsSameBut [] s t

/-- Only the listed registers may differ. -/
def OnlyRegs (xs : List Reg) (s t : State) : Prop := t = { s with v := t.v } ∧ MemSame s t ∧ RegsSameBut xs s t

/-- The register `x` gets the value `r`, and nothing else changes. -/
def WritesReg (x : Reg) (r : Byte) (s t : State) : Prop := t.reg x = r ∧ OnlyRegs [x] s t

/-- `x` gets the result `r` and VF the flag `f` (43_alu.md R150). For `x = F` the flag survives where VF is written last,
and else the result. Nothing else changes. -/
def WritesResultAndFlag (x : Reg) (r f : Byte) (s t : State) : Prop :=
  (x ≠ VF → t.reg x = r ∧ t.reg VF = f) ∧ (x = VF → t.reg VF = if s.cfg.vfWriteLast then f else r)
    ∧ OnlyRegs [x, VF] s t

/-- `x` gets the result `r` and VF is 0 afterwards, also for `x = F` (43_alu.md R154). Nothing else changes. -/
def WritesLogic (x : Reg) (r : Byte) (s t : State) : Prop :=
  (x ≠ VF → t.reg x = r) ∧ t.reg VF = 0#8 ∧ OnlyRegs [x, VF] s t

/-- `pc` moves past one more word exactly when the condition holds (42_skip.md R140). Nothing else changes. -/
def SkipsExactlyIf (c : Bool) (s t : State) : Prop :=
  t.pc.toNat = (if c then (s.pc.toNat + 2) % 4096 else s.pc.toNat) ∧ OnlyPc s t

/-- The sprite of `n` rows at `I`, drawn at (`x0`, `y0`), has a set bit over the pixel (`col`, `row`): bit 7 is the leftmost
and row `r` is the byte at `I + r` mod 4096 (44_index_random_draw.md R173, R174). -/
def SpriteSets (s : State) (x0 y0 n col row : Nat) : Prop :=
  x0 ≤ col ∧ col < x0 + 8 ∧ y0 ≤ row ∧ row < y0 + n
    ∧ (s.readByte (BitVec.ofNat 16 ((s.index.toNat + (row - y0)) % 4096))).getLsbD (7 - (col - x0)) = true

/-- A set bit of the sprite lands on a pixel that is on (R174 item 6). -/
def SpriteCollides (s : State) (x0 y0 n : Nat) : Prop :=
  ∃ col row : Nat, col < 64 ∧ row < 32 ∧ SpriteSets s x0 y0 n col row ∧ s.pixel col row = 1#8

/-- The barrier gate lets a cycle through (40_cycle.md R102): not a set barrier with an attached coordinator answering false. -/
abbrev BarrierOpen (s : State) : Prop :=
  ¬ (s.syncBarrier = true ∧ s.cfg.coordPresent = true ∧ s.inputs.barrierComplete = false)

/-- The player id a cycle resolves is valid (40_cycle.md R103): 1..playerCount, where a coordinator is attached and a player
selected. -/
abbrev PlayerInRange (s : State) : Prop :=
  s.cfg.coordPresent = true → s.activePlayer ≠ 0#4 →
    1 ≤ s.activePlayer.toNat ∧ s.activePlayer.toNat ≤ s.inputs.playerCount

/-- A cycle that passes its gates (40_cycle.md R100): not halted, no barrier wait, and a key source in range. -/
abbrev PassesGates (s : State) : Prop := s.halted = false ∧ BarrierOpen s ∧ PlayerInRange s

/-- The inputs the next step samples, if it is a cycle (10_state.md R41, R42). -/
def StepSamples (s : State) (inp : Inputs) : Prop :=
  s.script = [] ∧ inp = s.inputs ∨ ∃ rest, s.script = .cycle inp :: rest

end Sys2Proof
end

