-- ==== Sys2Proof/Certificates/Slice0/Obligations.lean ====
section
/-! DEFINITION. The statements for the provers. Each docstring names the rule of spec/ it formalises. Meanings run on the
post-fetch state (spec/40_cycle.md R110), so `pc` in a statement about `exec` is the instruction's address plus 2. -/

open Sys2Proof Sys2Proof.Machine

/-! ## Encoding -/

/-- Words written out from the table of 30_encoding.md R83 under the default parameters, one of each family, and a no-op. -/
def Obligations.DecodesWrittenOutWords : Prop :=
  decode defaultConfig 0x00EE#16 = .instr .ret ∧ decode defaultConfig 0x010F#16 = .instr .player15
    ∧ decode defaultConfig 0x2ABC#16 = .instr (.call 0xABC#12) ∧ decode defaultConfig 0x4A5C#16 = .instr (.sneImm 0xA#4 0x5C#8)
    ∧ decode defaultConfig 0x8BA6#16 = .instr (.shrReg 0xB#4 0xA#4)
    ∧ decode defaultConfig 0xD125#16 = .instr (.drw 0x1#4 0x2#4 0x5#4)
    ∧ decode defaultConfig 0xE5A1#16 = .instr (.sknp 0x5#4) ∧ decode defaultConfig 0xF265#16 = .instr (.loadRegs 0x2#4)
    ∧ decode defaultConfig 0x8128#16 = .nop .aluSubcode

/-- Decoding an encoded instruction gives it back, for all parameters a model may take (30_encoding.md R83). -/
def Obligations.DecodeOfEncodeIsTheInstruction : Prop :=
  ∀ (cfg : Config) (i : Instr), cfg.wellFormed = true → i.wellFormed = true → decode cfg (encode cfg.layout i) = .instr i

/-- Under the strict parameter a word that decodes to an instruction is that instruction's own word (30_encoding.md R83). -/
def Obligations.EncodeOfDecodeIsTheWord : Prop :=
  ∀ (cfg : Config) (op : Word) (i : Instr), cfg.skipLowNibble = .strict → decode cfg op = .instr i → encode cfg.layout i = op

/-- 30_encoding.md R83: "No two rows overlap." Rows are told apart by their places in the table, so two equal rows would
overlap too. For every layout the spec does not refuse (00_scope.md R6, decision D2). -/
def Obligations.NoTwoTableRowsOverlap : Prop :=
  ∀ l : Layout, l.wellFormed = true →
    (tableRows l).Pairwise fun r q => ∀ op : Word, ¬ (r.isRowOf op = true ∧ q.isRowOf op = true)

/-- 30_encoding.md R80 to R83, R85 to R87, R89: under the strict parameter a word of a row decodes to that row's instruction
with the row's fields as operands, and a word of no row is a no-op. -/
def Obligations.DecodesExactlyTheTableRows : Prop :=
  ∀ (cfg : Config) (op : Word), cfg.wellFormed = true → cfg.skipLowNibble = .strict →
    (∀ row ∈ opcodeMap cfg.layout, op &&& row.1.mask = row.1.value → decode cfg op = .instr (row.2 op))
    ∧ ((∀ row ∈ opcodeMap cfg.layout, op &&& row.1.mask ≠ row.1.value) → ∃ why, decode cfg op = .nop why)

/-- 30_encoding.md R88: 5XYn and 9XYn with n ≠ 0, under both values of the parameter (decision D14). -/
def Obligations.RegisterSkipLowNibble : Prop :=
  ∀ (cfg : Config) (op : Word), op.extractLsb' 0 4 ≠ 0#4 →
    (op.extractLsb' 12 4 = 0x5#4 →
      (cfg.skipLowNibble = .strict → decode cfg op = .nop .skipLowNibble)
      ∧ (cfg.skipLowNibble = .ignore → decode cfg op = .instr (.seReg (op.extractLsb' 8 4) (op.extractLsb' 4 4))))
    ∧ (op.extractLsb' 12 4 = 0x9#4 →
      (cfg.skipLowNibble = .strict → decode cfg op = .nop .skipLowNibble)
      ∧ (cfg.skipLowNibble = .ignore → decode cfg op = .instr (.sneReg (op.extractLsb' 8 4) (op.extractLsb' 4 4))))

/-! ## Reset and the invariant -/

/-- The reset values of 10_state.md R45. Most are the spec's own choice (decision D6, notes/assumptions/6.md); the seed 0,
COORD_PRESENT false and the ports' values are this model's (notes/assumptions/21.md, 30.md, 24.md). -/
def Obligations.ResetValues : Prop :=
  (∀ r : Reg, State.reset.reg r = 0#8) ∧ State.reset.pc = 0x200#16 ∧ State.reset.index = 0#16
    ∧ State.reset.sp.val = 0 ∧ (∀ k : Fin 16, State.reset.stack[k] = 0#16)
    ∧ (∀ col row : Nat, col < 64 → row < 32 → State.reset.pixel col row = 0#8)
    ∧ (List.range 80).map (fun k => State.reset.readByte (BitVec.ofNat 16 (0x050 + k)))
      = [0xF0, 0x90, 0x90, 0x90, 0xF0, 0x20, 0x60, 0x20, 0x20, 0x70, 0xF0, 0x10, 0xF0, 0x80, 0xF0, 0xF0, 0x10, 0xF0, 0x10, 0xF0]
        ++ [0x90, 0x90, 0xF0, 0x10, 0x10, 0xF0, 0x80, 0xF0, 0x10, 0xF0, 0xF0, 0x80, 0xF0, 0x90, 0xF0, 0xF0, 0x10, 0x20, 0x40, 0x40]
        ++ [0xF0, 0x90, 0xF0, 0x90, 0xF0, 0xF0, 0x90, 0xF0, 0x10, 0xF0, 0xF0, 0x90, 0xF0, 0x90, 0x90, 0xE0, 0x90, 0xE0, 0x90, 0xE0]
        ++ [0xF0, 0x80, 0x80, 0x80, 0xF0, 0xE0, 0x90, 0x90, 0x90, 0xE0, 0xF0, 0x80, 0xF0, 0x80, 0xF0, 0xF0, 0x80, 0xF0, 0x80, 0x80]
    ∧ (∀ a : Word, a.toNat < 0x050 ∨ (0x0A0 ≤ a.toNat ∧ a.toNat < 4096) → State.reset.readByte a = 0#8)
    ∧ State.reset.delayTimer = 0#8 ∧ State.reset.soundTimer = 0#8
    ∧ (∀ k : BitVec 4, keyAt State.reset.keyState k = false)
    ∧ State.reset.waitingForKey = false ∧ State.reset.waitingPhase = .press ∧ State.reset.waitingTrackedKey = 0#4
    ∧ State.reset.waitingTargetRegister = 0#4 ∧ State.reset.activePlayer = 0#4 ∧ State.reset.syncBarrier = false
    ∧ State.reset.drawFlag = false ∧ State.reset.halted = false ∧ State.reset.rng = 0 ∧ State.reset.events = []

/-- The reset state meets the invariants of 10_state.md R36 and R34. -/
def Obligations.ResetMeetsTheInvariants : Prop := Inv State.reset

/-- 10_state.md R36: "Every operation preserves them". Every step, whichever host operation it performs. -/
def Obligations.EveryStepKeepsTheInvariants : Prop :=
  ∀ s t : State, Inv s → step s = .next t → Inv t

/-! ## The cycle -/

/-- 40_cycle.md R110 to R112: a step that passes every gate fetches at `pc`, advances `pc` by 2 mod 4096, runs the decoded
instruction and reports Halted if it halted, else Executed. With no host operation pending the host calls `cycle`. -/
def Obligations.StepRunsTheDecodedInstruction : Prop :=
  ∀ (s : State) (i : Instr), s.script = [] → PassesGates s → s.waitingForKey = false →
    decode s.cfg (s.readByte s.pc ++ s.readByte (BitVec.ofNat 16 ((s.pc.toNat + 1) % 4096))) = .instr i →
    ∀ u : State, exec i { s with
        syncBarrier := false, keyState := s.sourceKeys, pc := BitVec.ofNat 16 ((s.pc.toNat + 2) % 4096) } = .next u →
      step s = .next { u with status := if u.halted then .halted else .executed }

/-- 30_encoding.md R89, 46_multiplayer.md R213: a word of no row only advances `pc` by 2; what the cycle itself does (the
barrier clears, the key snapshot is refreshed, the status is Executed) is 40_cycle.md R102 to R112. Under the parameter
`ignore` the words of groups 5 and 9 are the skips of R88. -/
def Obligations.UnmatchedWordOnlyAdvancesPc : Prop :=
  ∀ s : State, s.script = [] → PassesGates s → s.waitingForKey = false →
    (∀ r ∈ tableRows s.cfg.layout, s.fetchOpcode &&& r.mask ≠ r.value) →
    (s.cfg.skipLowNibble = .ignore →
      s.fetchOpcode.extractLsb' 12 4 ≠ 0x5#4 ∧ s.fetchOpcode.extractLsb' 12 4 ≠ 0x9#4) →
    step s = .next { s with
      pc := BitVec.ofNat 16 ((s.pc.toNat + 2) % 4096), syncBarrier := false, keyState := s.sourceKeys, status := .executed }

/-- The host's operations are performed one a step, in their order (10_state.md R41). An empty list standing for `cycle`
with the inputs presented is the model's (notes/assumptions/24.md). -/
def Obligations.StepPerformsTheNextHostOperation : Prop :=
  ∀ (s : State) (op : HostOp) (rest : List HostOp),
    (s.script = [] → step s = perform (.cycle s.inputs) s)
    ∧ (s.script = op :: rest → step s = perform op { s with script := rest }
        ∧ ∀ t, step s = .next t → t.script = rest)

/-- 40_cycle.md R101: a halted cycle reads no input, changes nothing and returns Halted, and so does every later one. -/
def Obligations.HaltedMachineStaysAsItIs : Prop :=
  (∀ (s : State) (inp : Inputs), s.halted = true →
      perform (.cycle inp) s = .next { s with inputs := inp, status := .halted })
    ∧ ∀ (s : State) (k : Nat), s.halted = true → s.script = [] →
      Sys2Proof.core.run (k + 1) s = .next { s with status := .halted }

/-- 40_cycle.md R102: the three outcomes of the barrier gate. -/
def Obligations.BarrierGate : Prop :=
  ∀ s : State, s.halted = false → s.syncBarrier = true →
    (s.cfg.coordPresent = true → s.inputs.barrierComplete = false →
      cycle s = .next { s with status := .blockedBarrier })
    ∧ (s.cfg.coordPresent = true → s.inputs.barrierComplete = true → cycle s = cycle { s with syncBarrier := false })
    ∧ (s.cfg.coordPresent = false → cycle s = cycle { s with syncBarrier := false })

/-- 40_cycle.md R103, 60_exceptions.md R222: an out-of-range player id faults with that id (range: decision D21). -/
def Obligations.OutOfRangePlayerFaults : Prop :=
  ∀ s : State, s.halted = false → BarrierOpen s → s.cfg.coordPresent = true → s.activePlayer ≠ 0#4 →
    ¬ (1 ≤ s.activePlayer.toNat ∧ s.activePlayer.toNat ≤ s.inputs.playerCount) →
    cycle s = .fault (.invalidPlayerId s.activePlayer)

/-- 60_exceptions.md R221, R222, R225: a step faults exactly when it is a cycle that is not halted, whose barrier gate lets
it through, and whose player id is outside 1..playerCount of the inputs it samples, with a coordinator attached (range:
decision D21); the fault is that id. No step is refused. -/
def Obligations.StepFaultsOnlyOnInvalidPlayer : Prop :=
  ∀ s : State, (∀ r, step s ≠ .refused r)
    ∧ ∀ f, step s = .fault f ↔
      ∃ inp, StepSamples s inp ∧ s.halted = false ∧ BarrierOpen { s with inputs := inp } ∧ s.cfg.coordPresent = true
        ∧ s.activePlayer ≠ 0#4 ∧ ¬ (1 ≤ s.activePlayer.toNat ∧ s.activePlayer.toNat ≤ inp.playerCount)
        ∧ f = .invalidPlayerId s.activePlayer

/-- 40_cycle.md R103, R104: a cycle that passes step 2 leaves `keyState` equal to the whole resolved source, whichever
instruction it runs. -/
def Obligations.CycleRefreshesTheKeySnapshot : Prop :=
  ∀ s t : State, s.halted = false → BarrierOpen s → cycle s = .next t →
    ∀ k : BitVec 4,
      (s.cfg.coordPresent = true → keyAt t.keyState k = keyAt (s.inputs.keys[s.activePlayer.toNat]'s.activePlayer.isLt) k)
      ∧ (s.cfg.coordPresent = false → keyAt t.keyState k = keyAt s.inputs.keys[0] k)

/-- 40_cycle.md R105, R106: the press phase tracks the lowest pressed key, or leaves the wait as it is. -/
def Obligations.KeyWaitPressPhase : Prop :=
  ∀ s : State, PassesGates s → s.waitingForKey = true → s.waitingPhase = .press →
    (∀ k : BitVec 4, keyAt s.sourceKeys k = true → (∀ j : BitVec 4, j < k → keyAt s.sourceKeys j = false) →
      cycle s = .next { s with
        syncBarrier := false, keyState := s.sourceKeys, waitingTrackedKey := k, waitingPhase := .release,
        status := .blockedKey })
    ∧ ((∀ k : BitVec 4, keyAt s.sourceKeys k = false) →
      cycle s = .next { s with syncBarrier := false, keyState := s.sourceKeys, status := .blockedKey })

/-- 40_cycle.md R105, R107: the release phase completes exactly when the tracked key is released. -/
def Obligations.KeyWaitReleasePhase : Prop :=
  ∀ s : State, PassesGates s → s.waitingForKey = true → s.waitingPhase = .release →
    (keyAt s.sourceKeys s.waitingTrackedKey = true →
      cycle s = .next { s with syncBarrier := false, keyState := s.sourceKeys, status := .blockedKey })
    ∧ (keyAt s.sourceKeys s.waitingTrackedKey = false →
      ∃ t, cycle s = .next t ∧ (t.reg s.waitingTargetRegister).toNat = s.waitingTrackedKey.toNat
        ∧ RegsSameBut [s.waitingTargetRegister] s t ∧ MemSame s t
        ∧ t = { s with
          v := t.v, syncBarrier := false, keyState := s.sourceKeys, waitingForKey := false, waitingPhase := .press,
          status := .blockedKey })

/-- 40_cycle.md R107: while the tracked key stays held, no sequence of other presses and releases completes the wait. -/
def Obligations.HeldTrackedKeyNeverCompletesTheWait : Prop :=
  ∀ (inps : List Inputs) (s : State), s.halted = false → s.syncBarrier = false → s.waitingForKey = true →
    s.waitingPhase = .release → s.script = inps.map .cycle →
    (∀ inp ∈ inps, PlayerInRange { s with inputs := inp }
      ∧ keyAt (State.sourceKeys { s with inputs := inp }) s.waitingTrackedKey = true) →
    ∃ t, Sys2Proof.core.run inps.length s = .next t ∧ t.waitingForKey = true ∧ t.waitingPhase = .release
      ∧ t.waitingTrackedKey = s.waitingTrackedKey ∧ t.pc = s.pc ∧ t.v = s.v ∧ MemSame s t

/-- 10_state.md R42, 40_cycle.md R102, R103, 46_multiplayer.md R214: a cycle reads the resolved source's keys, the
coordinator's answer only at a set barrier, and its player count only for a player's source. No other input shows. -/
def Obligations.UnreadInputsAreInvisible : Prop :=
  ∀ (s : State) (inp : Inputs),
    inp.keys[s.sourcePlayer.toNat]'s.sourcePlayer.isLt = s.sourceKeys →
    (s.syncBarrier = true → s.cfg.coordPresent = true → inp.barrierComplete = s.inputs.barrierComplete) →
    (s.activePlayer ≠ 0#4 → s.cfg.coordPresent = true → inp.playerCount = s.inputs.playerCount) →
    ∀ t, cycle s = .next t → cycle { s with inputs := inp } = .next { t with inputs := inp }

/-! ## The other host operations -/

/-- 60_exceptions.md R230: the timer advance. Whether it acts while halted is the parameter of decision D17. -/
def Obligations.TickCountsBothTimersDown : Prop :=
  ∀ s : State,
    (s.halted = true → s.cfg.tickWhileHalted = false → perform .tick s = .next s)
    ∧ (s.halted = false ∨ s.cfg.tickWhileHalted = true →
      ∃ t, perform .tick s = .next t ∧ t.delayTimer.toNat = s.delayTimer.toNat - 1
        ∧ t.soundTimer.toNat = s.soundTimer.toNat - 1
        ∧ t.events = s.events ++ (if s.soundTimer.toNat = 1 then [.toneStop] else [])
        ∧ t = { s with delayTimer := t.delayTimer, soundTimer := t.soundTimer, events := t.events })

/-- 70_reset_and_hazards.md R250: every field of the machine state and the generator anew, `pc` and memory by the instance's
layout, the parameters and the ports kept, and no event (decision D24). With no seed the generator is seeded from the free
value drawn (notes/assumptions/20.md). -/
def Obligations.ResetReplacesTheState : Prop :=
  ∀ (s : State) (seed : Option Nat),
    ∃ t, perform (.reset seed) s = .next t
      ∧ t = { State.reset with
        pc := BitVec.ofNat 16 s.cfg.layout.programOrigin, rng := t.rng, cfg := s.cfg, inputs := s.inputs,
        script := s.script, events := s.events, seedDraws := t.seedDraws }
      ∧ (∀ n, seed = some n → t.rng = n % 2 ^ s.cfg.prngWidth)
      ∧ (seed = none → t.rng = Config.freeSeed s.seedDraws % 2 ^ s.cfg.prngWidth)
      ∧ (s.cfg.wellFormed = true →
        (∀ k : Nat, ∀ h : k < s.cfg.layout.fontData.length,
          t.readByte (BitVec.ofNat 16 (s.cfg.layout.fontBase + k)) = s.cfg.layout.fontData[k]'h)
        ∧ ∀ a : Word, a.toNat < 4096 → a.toNat < s.cfg.layout.fontBase ∨ s.cfg.layout.fontBase + 80 ≤ a.toNat →
          t.readByte a = 0#8)

/-- 70_reset_and_hazards.md R252, 60_exceptions.md R223: an image longer than 4096 - PROGRAM_ORIGIN bytes is rejected, and
the prior state stays. -/
def Obligations.TooLongImageIsRejected : Prop :=
  ∀ (s : State) (image : List Byte) (seed : Option Nat), 4096 - s.cfg.layout.programOrigin < image.length →
    perform (.load image seed) s = .next { s with status := .loadRejected image.length }

/-- 70_reset_and_hazards.md R252: an image that fits is copied verbatim from PROGRAM_ORIGIN into the state of a reset; every
other byte is as after reset (decision D24). -/
def Obligations.LoadCopiesTheImage : Prop :=
  ∀ (s : State) (image : List Byte) (seed : Option Nat) (o : Nat), s.cfg.wellFormed = true →
    o = s.cfg.layout.programOrigin → image.length ≤ 4096 - o →
    ∃ r t, perform (.reset seed) s = .next r ∧ perform (.load image seed) s = .next t
      ∧ t = { r with mem := t.mem }
      ∧ (∀ k : Nat, ∀ h : k < image.length, t.readByte (BitVec.ofNat 16 (o + k)) = image[k]'h)
      ∧ ∀ a : Word, a.toNat < 4096 → a.toNat < o ∨ o + image.length ≤ a.toNat → t.readByte a = r.readByte a

/-- 10_state.md R32: no cycle clears `drawFlag`; the host's acknowledge does, and it does nothing else (decision D26). -/
def Obligations.DrawFlagIsClearedByTheHost : Prop :=
  (∀ s t : State, s.drawFlag = true → cycle s = .next t → t.drawFlag = true)
    ∧ ∀ s : State, perform .ackDraw s = .next { s with drawFlag := false }

/-! ## Rules over all instructions -/

/-- 10_state.md R29: no instruction counts a timer down; FX15 and FX18 are the only writers. -/
def Obligations.OnlyTimerLoadsWriteTimers : Prop :=
  ∀ (i : Instr) (s t : State), exec i s = .next t →
    (t.delayTimer = s.delayTimer ∨ ∃ x, i = .ldDTVx x ∧ t.delayTimer = s.reg x)
    ∧ (t.soundTimer = s.soundTimer ∨ ∃ x, i = .ldSTVx x ∧ t.soundTimer = s.reg x)

/-- 44_index_random_draw.md R171, R172: only CXKK advances the generator, once. -/
def Obligations.OnlyRndAdvancesTheGenerator : Prop :=
  ∀ (i : Instr) (s t : State), exec i s = .next t →
    ((∀ x kk, i ≠ .rnd x kk) → t.rng = s.rng)
    ∧ ∀ x kk, i = .rnd x kk → t.rng = (s.cfg.prngMul * s.rng + s.cfg.prngInc) % 2 ^ s.cfg.prngWidth

/-- 10_state.md R27, R32: 00E0 and DXYN mark a redraw, and every other instruction leaves the display and the draw flag. -/
def Obligations.OnlyClearAndDrawWriteTheDisplay : Prop :=
  ∀ (i : Instr) (s t : State), exec i s = .next t →
    (i = .cls ∨ (∃ x y n, i = .drw x y n) → t.drawFlag = true)
    ∧ (i ≠ .cls → (∀ x y n, i ≠ .drw x y n) → t.display = s.display ∧ t.drawFlag = s.drawFlag)

/-- 20_memory.md R60: only FX33 and FX55 write memory. -/
def Obligations.OnlyStoresWriteMemory : Prop :=
  ∀ (i : Instr) (s t : State), exec i s = .next t → (∀ x, i ≠ .ldB x ∧ i ≠ .storeRegs x) → MemSame s t

/-- 60_exceptions.md R220, R221, R225: only a call on a full stack and a return on an empty one halt the machine. -/
def Obligations.OnlyStackErrorsHalt : Prop :=
  ∀ (i : Instr) (s t : State), exec i s = .next t → s.halted = false → t.halted = true →
    (i = .ret ∧ s.sp.val = 0) ∨ ∃ nnn, i = .call nnn ∧ s.sp.val = 16

/-- 10_state.md R22: the instructions that write VF without naming it. Any other one changes it only as its named
destination, FX65 with x = F included. -/
def Obligations.OnlyListedInstructionsWriteVF : Prop :=
  ∀ (i : Instr) (s t : State), exec i s = .next t → t.reg VF ≠ s.reg VF →
    (∃ x y, i = .orReg x y ∨ i = .andReg x y ∨ i = .xorReg x y ∨ i = .addReg x y ∨ i = .subReg x y ∨ i = .subnReg x y
      ∨ i = .shrReg x y ∨ i = .shlReg x y)
    ∨ (∃ x y n, i = .drw x y n)
    ∨ (∃ kk, i = .ldImm VF kk ∨ i = .addImm VF kk ∨ i = .rnd VF kk) ∨ (∃ y, i = .ldReg VF y) ∨ i = .ldVxDT VF
    ∨ i = .loadRegs VF

/-- 10_state.md R23: the instructions that write `I`. -/
def Obligations.OnlyListedInstructionsWriteTheIndex : Prop :=
  ∀ (i : Instr) (s t : State), exec i s = .next t → t.index ≠ s.index →
    (∃ nnn, i = .ldI nnn) ∨ ∃ x, i = .addI x ∨ i = .ldF x ∨ i = .storeRegs x ∨ i = .loadRegs x

/-- 10_state.md R25, R30, R31, R35: which instructions write the stack, the key wait, the barrier and the player. -/
def Obligations.OnlyListedInstructionsWriteControlState : Prop :=
  ∀ (i : Instr) (s t : State), exec i s = .next t →
    (t.sp ≠ s.sp ∨ t.stack ≠ s.stack → i = .ret ∨ ∃ nnn, i = .call nnn)
    ∧ ((∀ x, i ≠ .ldVxK x) → t.waitingForKey = s.waitingForKey ∧ t.waitingPhase = s.waitingPhase
        ∧ t.waitingTargetRegister = s.waitingTargetRegister)
    ∧ t.waitingTrackedKey = s.waitingTrackedKey
    ∧ (i ≠ .sync → t.syncBarrier = s.syncBarrier)
    ∧ (t.activePlayer ≠ s.activePlayer →
        i ∈ [.player1, .player2, .player3, .player4, .player5, .player6, .player7, .player8, .player9, .player10,
          .player11, .player12, .player13, .player14, .player15, .shared])

/-- 10_state.md R28, R43, 92_eei_decisions.md D30: no instruction writes the key snapshot, the parameters or the host's side. -/
def Obligations.NoInstructionWritesTheHostSide : Prop :=
  ∀ (i : Instr) (s t : State), exec i s = .next t →
    t.keyState = s.keyState ∧ t.cfg = s.cfg ∧ t.inputs = s.inputs ∧ t.script = s.script ∧ t.status = s.status
      ∧ t.seedDraws = s.seedDraws ∧ ∃ es : List Event, t.events = s.events ++ es

/-- 20_memory.md R70, 70_reset_and_hazards.md R261: an opcode stored by FX55 is what the next fetch at its address reads. -/
def Obligations.StoredOpcodeIsFetched : Prop :=
  ∀ (s t : State) (x : Reg), 1 ≤ x.toNat → exec (.storeRegs x) s = .next t →
    State.fetchOpcode { t with pc := s.index } = s.reg 0#4 ++ s.reg 1#4

/-! ## Flow -/

/-- 41_flow.md R130, 44_index_random_draw.md R175: CLS. -/
def Obligations.ClsResult : Prop :=
  ∀ s : State, ∃ t, exec .cls s = .next t ∧ (∀ col row : Nat, col < 64 → row < 32 → t.pixel col row = 0#8)
    ∧ t = { s with display := t.display, drawFlag := true, events := s.events ++ [.surfaceClear] }
    ∧ RegsSameBut [] s t ∧ MemSame s t
    ∧ ∀ col row : Nat, pixelOf t.sinkSurface col row = t.pixel col row

/-- 41_flow.md R131, 10_state.md R25: RET pops the return address into `pc`, mod 4096; on an empty stack it only halts. -/
def Obligations.RetPopsOrHalts : Prop :=
  ∀ s : State,
    (∀ h : 0 < s.sp.val, ∃ t, exec .ret s = .next t ∧ t.sp.val = s.sp.val - 1
      ∧ t.pc.toNat = (s.stack[s.sp.val - 1]'(by have := s.sp.isLt; omega)).toNat % 4096
      ∧ t = { s with sp := t.sp, pc := t.pc } ∧ RegsSameBut [] s t ∧ MemSame s t)
    ∧ (s.sp.val = 0 → exec .ret s = .next { s with halted := true })

/-- 41_flow.md R133, 10_state.md R25: CALL pushes the post-fetch `pc` and jumps; on a full stack it only halts. -/
def Obligations.CallPushesOrHalts : Prop :=
  ∀ (s : State) (nnn : Addr),
    (∀ h : s.sp.val < 16, ∃ t, exec (.call nnn) s = .next t ∧ t.sp.val = s.sp.val + 1
      ∧ t.stack[s.sp.val]'h = s.pc ∧ (∀ k : Nat, ∀ hk : k < 16, k ≠ s.sp.val → t.stack[k]'hk = s.stack[k]'hk)
      ∧ t.pc.toNat = nnn.toNat
      ∧ t = { s with sp := t.sp, stack := t.stack, pc := t.pc } ∧ RegsSameBut [] s t ∧ MemSame s t)
    ∧ (s.sp.val = 16 → exec (.call nnn) s = .next { s with halted := true })

/-- 60_exceptions.md R220, 40_cycle.md R112: the cycle of a stack error itself returns Halted, with `pc` past the
instruction and the stack as it was. -/
def Obligations.HaltingCycleReportsHalted : Prop :=
  ∀ (s : State) (i : Instr), s.script = [] → PassesGates s → s.waitingForKey = false →
    decode s.cfg s.fetchOpcode = .instr i →
    (i = .ret ∧ s.sp.val = 0) ∨ (∃ nnn, i = .call nnn ∧ s.sp.val = 16) →
    step s = .next { s with
      pc := BitVec.ofNat 16 ((s.pc.toNat + 2) % 4096), syncBarrier := false, keyState := s.sourceKeys, halted := true,
      status := .halted }

/-- 41_flow.md R132, R135: JP and JP V0. -/
def Obligations.JumpTargets : Prop :=
  ∀ (s : State) (nnn : Addr),
    (∃ t, exec (.jp nnn) s = .next t ∧ t.pc.toNat = nnn.toNat ∧ OnlyPc s t)
    ∧ ∃ t, exec (.jpV0 nnn) s = .next t ∧ t.pc.toNat = (nnn.toNat + (s.reg 0#4).toNat) % 4096 ∧ OnlyPc s t

/-! ## Skips -/

/-- 42_skip.md R141, R142: SE and SNE with an immediate. -/
def Obligations.ImmediateSkips : Prop :=
  ∀ (s : State) (x : Reg) (kk : Byte),
    (∃ t, exec (.seImm x kk) s = .next t ∧ SkipsExactlyIf (decide (s.reg x = kk)) s t)
    ∧ ∃ t, exec (.sneImm x kk) s = .next t ∧ SkipsExactlyIf (decide (s.reg x ≠ kk)) s t

/-- 42_skip.md R143, R144: SE and SNE with a register. -/
def Obligations.RegisterSkips : Prop :=
  ∀ (s : State) (x y : Reg),
    (∃ t, exec (.seReg x y) s = .next t ∧ SkipsExactlyIf (decide (s.reg x = s.reg y)) s t)
    ∧ ∃ t, exec (.sneReg x y) s = .next t ∧ SkipsExactlyIf (decide (s.reg x ≠ s.reg y)) s t

/-- 42_skip.md R145, R146, R147: SKP and SKNP on the cycle's snapshot, for both values of KEY_INDEX_MODE. -/
def Obligations.KeySkips : Prop :=
  ∀ (s : State) (x : Reg) (pressed : Bool),
    (s.cfg.keyIndexMode = .mask ∨ (s.reg x).toNat ≤ 15 →
      pressed = s.keyState[(s.reg x).toNat % 16]'(Nat.mod_lt _ (by decide))) →
    (s.cfg.keyIndexMode = .oorReleased ∧ 15 < (s.reg x).toNat → pressed = false) →
    (∃ t, exec (.skp x) s = .next t ∧ SkipsExactlyIf pressed s t)
    ∧ ∃ t, exec (.sknp x) s = .next t ∧ SkipsExactlyIf (!pressed) s t

/-! ## ALU -/

/-- 43_alu.md R151, R152, R153: LD and ADD with an immediate, and the register copy. No flag is written. -/
def Obligations.LoadsAndImmediateAdd : Prop :=
  ∀ (s : State) (x y : Reg) (kk : Byte),
    (∃ t, exec (.ldImm x kk) s = .next t ∧ WritesReg x kk s t)
    ∧ (∃ t, exec (.addImm x kk) s = .next t ∧ WritesReg x (BitVec.ofNat 8 (((s.reg x).toNat + kk.toNat) % 256)) s t)
    ∧ ∃ t, exec (.ldReg x y) s = .next t ∧ WritesReg x (s.reg y) s t

/-- 43_alu.md R154, R155, R156: OR, AND and XOR reset VF, also when it is the destination. -/
def Obligations.LogicResetsVF : Prop :=
  ∀ (s : State) (x y : Reg),
    (∃ t, exec (.orReg x y) s = .next t ∧ WritesLogic x (s.reg x ||| s.reg y) s t)
    ∧ (∃ t, exec (.andReg x y) s = .next t ∧ WritesLogic x (s.reg x &&& s.reg y) s t)
    ∧ ∃ t, exec (.xorReg x y) s = .next t ∧ WritesLogic x (s.reg x ^^^ s.reg y) s t

/-- 43_alu.md R150, R157, R158, R160: ADD, SUB and SUBN with carry and not-borrow. What VF holds for x = F is the
parameter of decision D9; both its values are stated. -/
def Obligations.AddAndSubtract : Prop :=
  ∀ (s : State) (x y : Reg) (a b : Nat), a = (s.reg x).toNat → b = (s.reg y).toNat →
    (∃ t, exec (.addReg x y) s = .next t
      ∧ WritesResultAndFlag x (BitVec.ofNat 8 ((a + b) % 256)) (if a + b > 255 then 1#8 else 0#8) s t)
    ∧ (∃ t, exec (.subReg x y) s = .next t
      ∧ WritesResultAndFlag x (BitVec.ofNat 8 ((256 + a - b) % 256)) (if a ≥ b then 1#8 else 0#8) s t)
    ∧ ∃ t, exec (.subnReg x y) s = .next t
      ∧ WritesResultAndFlag x (BitVec.ofNat 8 ((256 + b - a) % 256)) (if b ≥ a then 1#8 else 0#8) s t

/-- 43_alu.md R150, R159, R161: the shifts read `V[y]` and VF gets the bit shifted out. What VF holds for x = F is
the parameter of decision D9; both its values are stated. -/
def Obligations.ShiftsReadTheSecondOperand : Prop :=
  ∀ (s : State) (x y : Reg) (b : Nat), b = (s.reg y).toNat →
    (∃ t, exec (.shrReg x y) s = .next t ∧ WritesResultAndFlag x (BitVec.ofNat 8 (b / 2)) (BitVec.ofNat 8 (b % 2)) s t)
    ∧ ∃ t, exec (.shlReg x y) s = .next t
      ∧ WritesResultAndFlag x (BitVec.ofNat 8 (b * 2 % 256)) (BitVec.ofNat 8 (b / 128)) s t

/-! ## Index, random, draw -/

/-- 44_index_random_draw.md R170, 45_fx.md R194, R195: LD I, ADD I and LD F, for any glyph base (decision D5). -/
def Obligations.IndexLoads : Prop :=
  ∀ (s : State) (nnn : Addr) (x : Reg),
    (∃ t, exec (.ldI nnn) s = .next t ∧ t.index.toNat = nnn.toNat ∧ OnlyIndex s t)
    ∧ (∃ t, exec (.addI x) s = .next t ∧ t.index.toNat = (s.index.toNat + (s.reg x).toNat) % 4096 ∧ OnlyIndex s t)
    ∧ ∃ t, exec (.ldF x) s = .next t ∧ t.index.toNat = (s.cfg.layout.fontBase + 5 * ((s.reg x).toNat % 16)) % 4096 ∧ OnlyIndex s t

/-- 44_index_random_draw.md R171, R172, 10_state.md R34: one `Next()` under the mask, for any width, multiplier, increment
and output map of PRNG (decision D20). -/
def Obligations.RndResult : Prop :=
  ∀ (s : State) (x : Reg) (kk : Byte) (r : Nat),
    r = (s.cfg.prngMul * s.rng + s.cfg.prngInc) % 2 ^ s.cfg.prngWidth →
    ∃ t, exec (.rnd x kk) s = .next t ∧ t.rng = r
      ∧ (∀ lo, s.cfg.prngMap = .bits lo → t.reg x = BitVec.ofNat 8 (r / 2 ^ lo % 256) &&& kk)
      ∧ (∀ id, s.cfg.prngMap = .unknown id → t.reg x = Config.unknownPrngMap id r &&& kk)
      ∧ t = { s with v := t.v, rng := t.rng } ∧ RegsSameBut [x] s t ∧ MemSame s t

/-- 44_index_random_draw.md R173, R174, R175: DRW pixel by pixel, with its collision flag and its event. -/
def Obligations.DrwResult : Prop :=
  ∀ (s : State) (x y : Reg) (n : BitVec 4) (x0 y0 : Nat), x0 = (s.reg x).toNat % 64 → y0 = (s.reg y).toNat % 32 →
    ∃ t, exec (.drw x y n) s = .next t
      ∧ (∀ col row : Nat, col < 64 → row < 32 →
          (SpriteSets s x0 y0 n.toNat col row → t.pixel col row = s.pixel col row ^^^ 1#8)
          ∧ (¬ SpriteSets s x0 y0 n.toNat col row → t.pixel col row = s.pixel col row))
      ∧ (SpriteCollides s x0 y0 n.toNat → t.reg VF = 1#8) ∧ (¬ SpriteCollides s x0 y0 n.toNat → t.reg VF = 0#8)
      ∧ t = { s with v := t.v, display := t.display, drawFlag := true, events := s.events ++ [.surfaceUpdate t.display] }
      ∧ RegsSameBut [VF] s t ∧ MemSame s t
      ∧ ∀ col row : Nat, pixelOf t.sinkSurface col row = t.pixel col row

/-- 44_index_random_draw.md R174 item 6: the same sprite drawn twice at the same place restores every pixel, and the second
draw reports a collision exactly when a set bit's pixel was on just before it. -/
def Obligations.DrawingTwiceRestoresTheDisplay : Prop :=
  ∀ (s t u : State) (x y : Reg) (n : BitVec 4),
    (t.reg x).toNat % 64 = (s.reg x).toNat % 64 → (t.reg y).toNat % 32 = (s.reg y).toNat % 32 →
    exec (.drw x y n) s = .next t → exec (.drw x y n) t = .next u →
    DisplaySame s u ∧ (u.reg VF = 1#8 ↔ SpriteCollides t ((s.reg x).toNat % 64) ((s.reg y).toNat % 32) n.toNat)

/-! ## Group F -/

/-- 45_fx.md R190, R192, R193: the timer instructions and the tone's start. -/
def Obligations.TimerInstructions : Prop :=
  ∀ (s : State) (x : Reg),
    (∃ t, exec (.ldVxDT x) s = .next t ∧ WritesReg x s.delayTimer s t)
    ∧ (∃ t, exec (.ldDTVx x) s = .next t ∧ t = { s with delayTimer := s.reg x } ∧ RegsSameBut [] s t ∧ MemSame s t)
    ∧ ∃ t, exec (.ldSTVx x) s = .next t
      ∧ t = { s with soundTimer := s.reg x, events := s.events ++ (if (s.reg x).toNat = 0 then [] else [.toneStart]) }
      ∧ RegsSameBut [] s t ∧ MemSame s t

/-- 45_fx.md R191: FX0A arms the key wait on its register and writes nothing else. -/
def Obligations.KeyWaitIsArmed : Prop :=
  ∀ (s : State) (x : Reg), ∃ t, exec (.ldVxK x) s = .next t ∧ t.waitingForKey = true ∧ t.waitingPhase = .press
    ∧ t.waitingTargetRegister = x
    ∧ t = { s with waitingForKey := true, waitingPhase := .press, waitingTargetRegister := x }
    ∧ RegsSameBut [] s t ∧ MemSame s t

/-- 45_fx.md R196: the decimal digits at `I`, `I+1` and `I+2` mod 4096, and no other byte. -/
def Obligations.DecimalDigitsAreStored : Prop :=
  ∀ (s : State) (x : Reg) (b : Nat), b = (s.reg x).toNat →
    ∃ t, exec (.ldB x) s = .next t
      ∧ (t.readByte (BitVec.ofNat 16 (s.index.toNat % 4096))).toNat = b / 100
      ∧ (t.readByte (BitVec.ofNat 16 ((s.index.toNat + 1) % 4096))).toNat = b / 10 % 10
      ∧ (t.readByte (BitVec.ofNat 16 ((s.index.toNat + 2) % 4096))).toNat = b % 10
      ∧ (∀ a : Word, (∀ k : Nat, k < 3 → a.toNat % 4096 ≠ (s.index.toNat + k) % 4096) → t.readByte a = s.readByte a)
      ∧ t = { s with mem := t.mem } ∧ RegsSameBut [] s t

/-- 45_fx.md R197: FX55 stores V[0]..V[x] from `I` on, mod 4096, and leaves `I` past the block. -/
def Obligations.RegistersAreStored : Prop :=
  ∀ (s : State) (x : Reg), ∃ t, exec (.storeRegs x) s = .next t
    ∧ (∀ k : Nat, k ≤ x.toNat →
        t.readByte (BitVec.ofNat 16 ((s.index.toNat + k) % 4096)) = s.reg (BitVec.ofNat 4 k))
    ∧ (∀ a : Word, (∀ k : Nat, k ≤ x.toNat → a.toNat % 4096 ≠ (s.index.toNat + k) % 4096) → t.readByte a = s.readByte a)
    ∧ t.index.toNat = (s.index.toNat + x.toNat + 1) % 4096
    ∧ t = { s with mem := t.mem, index := t.index } ∧ RegsSameBut [] s t

/-- 45_fx.md R198: FX65 loads V[0]..V[x] from `I` on, mod 4096, and leaves `I` past the block. -/
def Obligations.RegistersAreLoaded : Prop :=
  ∀ (s : State) (x : Reg), ∃ t, exec (.loadRegs x) s = .next t
    ∧ (∀ k : Nat, k ≤ x.toNat →
        t.reg (BitVec.ofNat 4 k) = s.readByte (BitVec.ofNat 16 ((s.index.toNat + k) % 4096)))
    ∧ (∀ r : Reg, x.toNat < r.toNat → t.reg r = s.reg r)
    ∧ t.index.toNat = (s.index.toNat + x.toNat + 1) % 4096
    ∧ t = { s with v := t.v, index := t.index } ∧ MemSame s t

/-! ## Multiplayer -/

/-- 46_multiplayer.md R210: SYNC sets the barrier and notifies an attached coordinator. -/
def Obligations.SyncSetsTheBarrier : Prop :=
  ∀ s : State, ∃ t, exec .sync s = .next t
    ∧ t = { s with
      syncBarrier := true, events := s.events ++ (if s.cfg.coordPresent then [.notifyArrival] else []) }
    ∧ RegsSameBut [] s t ∧ MemSame s t

/-- 46_multiplayer.md R211, R212: PLAYER n and SHARED select the key source. -/
def Obligations.PlayerAndSharedSelectTheSource : Prop :=
  ∀ (s : State) (i : Instr) (n : Nat),
    (i, n) ∈ [(.player1, 1), (.player2, 2), (.player3, 3), (.player4, 4), (.player5, 5), (.player6, 6), (.player7, 7),
      (.player8, 8), (.player9, 9), (.player10, 10), (.player11, 11), (.player12, 12), (.player13, 13), (.player14, 14),
      (.player15, 15), (.shared, 0)] →
    ∃ t, exec i s = .next t ∧ t.activePlayer.toNat = n ∧ t = { s with activePlayer := t.activePlayer }
      ∧ RegsSameBut [] s t ∧ MemSame s t
end

