-- ==== Sys2Proof/Laws/Cells.lean ====
section
/-! SUPPORT. The laws of the byte stores behind memory and display: read after write on every list, and the canonical form,
which every write keeps. -/

namespace Sys2Proof.Machine

variable {u : Nat → Byte} {size : Nat}

theorem cellsRead_erase (m : List Host.Cell) (a b : Nat) :
    cellsRead u (cellsErase m a) b = if b = a then u b else cellsRead u m b := by
  induction m with
  | nil => simp [cellsErase, cellsRead]
  | cons c rest ih =>
    simp only [cellsErase] at ih
    by_cases hc : c.1 = a
    · by_cases hb : b = a
      · simp_all [cellsErase]
      · have : ¬ c.1 = b := fun h => hb (h ▸ hc)
        simp_all [cellsErase, cellsRead]
    · by_cases hcb : c.1 = b
      · have : ¬ b = a := fun h => hc (hcb.trans h)
        simp_all [cellsErase, cellsRead]
      · simp_all [cellsErase, cellsRead]

theorem cellsRead_insert (m : List Host.Cell) (a : Nat) (v : Byte) (b : Nat) (h : ∀ c ∈ m, c.1 ≠ a) :
    cellsRead u (cellsInsert m a v) b = if b = a then v else cellsRead u m b := by
  induction m with
  | nil => simp only [cellsInsert, cellsRead, eq_comm]
  | cons c rest ih =>
    have hc : c.1 ≠ a := h c (by simp)
    have hr := ih fun d hd => h d (by simp [hd])
    unfold cellsInsert
    split
    · simp only [cellsRead, eq_comm]
    · by_cases hb : c.1 = b
      · have : b ≠ a := fun e => hc (hb.trans e)
        simp [cellsRead, hb, this]
      · simp [cellsRead, hb, hr]

theorem cellsErase_absent (m : List Host.Cell) (a : Nat) : ∀ c ∈ cellsErase m a, c.1 ≠ a := by
  intro c hc
  simpa using (List.mem_filter.mp hc).2

/-- Reading after a write: the byte written at its own place, and every other place as before. -/
theorem cellsRead_write (m : List Host.Cell) (a : Nat) (v : Byte) (b : Nat) :
    cellsRead u (cellsWrite u m a v) b = if b = a then v else cellsRead u m b := by
  unfold cellsWrite
  split
  · rename_i h
    rw [cellsRead_erase]
    split
    · rename_i hb; rw [hb, h]
    · rfl
  · rw [cellsRead_insert _ _ _ _ (cellsErase_absent m a), cellsRead_erase]
    split
    · rfl
    · rfl

theorem mem_cellsInsert (m : List Host.Cell) (a : Nat) (v : Byte) (c : Host.Cell) :
    c ∈ cellsInsert m a v ↔ c = (a, v) ∨ c ∈ m := by
  induction m with
  | nil => simp [cellsInsert]
  | cons d rest ih =>
    unfold cellsInsert
    split
    · simp
    · simp only [List.mem_cons, ih]; tauto

theorem cellsErase_canonical {m : List Host.Cell} (h : cellsCanonical u size m) (a : Nat) :
    cellsCanonical u size (cellsErase m a) :=
  ⟨h.1.filter _, fun c hc => h.2 c (List.mem_filter.mp hc).1⟩

theorem cellsInsert_sorted {m : List Host.Cell} (h : m.Pairwise (fun c d => c.1 < d.1)) (a : Nat) (v : Byte)
    (ha : ∀ c ∈ m, c.1 ≠ a) : (cellsInsert m a v).Pairwise (fun c d => c.1 < d.1) := by
  induction m with
  | nil => simp [cellsInsert]
  | cons c rest ih =>
    rw [List.pairwise_cons] at h
    have hc : c.1 ≠ a := ha c (by simp)
    unfold cellsInsert
    split
    · rename_i hlt
      rw [List.pairwise_cons, List.pairwise_cons]
      refine ⟨fun d hd => ?_, h⟩
      rcases List.mem_cons.mp hd with rfl | hd
      · exact hlt
      · exact hlt.trans (h.1 d hd)
    · rename_i hlt
      rw [List.pairwise_cons]
      refine ⟨fun d hd => ?_, ih h.2 fun d hd => ha d (by simp [hd])⟩
      rcases (mem_cellsInsert _ _ _ _).mp hd with rfl | hd
      · show c.1 < a
        omega
      · exact h.1 d hd

/-- A write below `size` keeps the canonical form. -/
theorem cellsWrite_canonical {m : List Host.Cell} (h : cellsCanonical u size m) (a : Nat) (v : Byte) (ha : a < size) :
    cellsCanonical u size (cellsWrite u m a v) := by
  have he := cellsErase_canonical h a
  unfold cellsWrite
  split
  · exact he
  · rename_i hv
    refine ⟨cellsInsert_sorted he.1 a v (cellsErase_absent m a), fun c hc => ?_⟩
    rcases (mem_cellsInsert _ _ _ _).mp hc with rfl | hc
    · exact ⟨ha, hv⟩
    · exact he.2 c hc

/-- Two canonical lists that read alike everywhere are equal. -/
theorem cellsCanonical_ext {m n : List Host.Cell} (hm : cellsCanonical u size m) (hn : cellsCanonical u size n)
    (h : ∀ a, cellsRead u m a = cellsRead u n a) : m = n := by
  have notIn : ∀ (l : List Host.Cell) (a : Nat), (∀ c ∈ l, a < c.1) → cellsRead u l a = u a := by
    intro l a hl
    induction l with
    | nil => rfl
    | cons c rest ih =>
      have : ¬ c.1 = a := by have := hl c (by simp); omega
      simp [cellsRead, this, ih fun d hd => hl d (by simp [hd])]
  induction m generalizing n with
  | nil =>
    cases n with
    | nil => rfl
    | cons d n' =>
      have := h d.1
      simp only [cellsRead, if_true] at this
      exact absurd this.symm (hn.2 d (by simp)).2
  | cons c m' ih =>
    cases n with
    | nil =>
      have := h c.1
      simp only [cellsRead, if_true] at this
      exact absurd this (hm.2 c (by simp)).2
    | cons d n' =>
      have hm1 := List.pairwise_cons.mp hm.1
      have hn1 := List.pairwise_cons.mp hn.1
      have hcd : c.1 = d.1 := by
        rcases Nat.lt_trichotomy c.1 d.1 with hlt | heq | hgt
        · have hr := h c.1
          rw [notIn (d :: n') c.1 (by
            intro e he
            rcases List.mem_cons.mp he with rfl | he
            · exact hlt
            · exact hlt.trans (hn1.1 e he))] at hr
          simp only [cellsRead, if_true] at hr
          exact absurd hr (hm.2 c (by simp)).2
        · exact heq
        · have hr := h d.1
          rw [notIn (c :: m') d.1 (by
            intro e he
            rcases List.mem_cons.mp he with rfl | he
            · exact hgt
            · exact hgt.trans (hm1.1 e he))] at hr
          simp only [cellsRead, if_true] at hr
          exact absurd hr.symm (hn.2 d (by simp)).2
      have hv : c.2 = d.2 := by
        have := h c.1
        simpa [cellsRead, hcd] using this
      have hrest : m' = n' := by
        refine ih ⟨hm1.2, fun e he => hm.2 e (by simp [he])⟩ ⟨hn1.2, fun e he => hn.2 e (by simp [he])⟩ fun a => ?_
        by_cases hca : c.1 = a
        · rw [notIn m' a (fun e he => hca ▸ hm1.1 e he), notIn n' a (fun e he => by
            have := hn1.1 e he
            omega)]
        · have := h a
          simpa [cellsRead, hca, hcd ▸ hca] using this
      rw [hrest, Prod.ext hcd hv]

end Sys2Proof.Machine
end

