-- ==== Sys2Proof/Laws/State.lean ====
section
/-! SUPPORT. What each named update of State does to each field, and to the reads of registers, memory and pixels. -/

namespace Sys2Proof.Machine

variable (s : State)

/-! ## setReg -/

theorem State.setReg_v (r : Reg) (b : Byte) : (s.setReg r b).v = s.v.set r.toNat b r.isLt := rfl
@[simp] theorem State.setReg_index (r : Reg) (b : Byte) : (s.setReg r b).index = s.index := rfl
@[simp] theorem State.setReg_pc (r : Reg) (b : Byte) : (s.setReg r b).pc = s.pc := rfl
@[simp] theorem State.setReg_stack (r : Reg) (b : Byte) : (s.setReg r b).stack = s.stack := rfl
@[simp] theorem State.setReg_sp (r : Reg) (b : Byte) : (s.setReg r b).sp = s.sp := rfl
@[simp] theorem State.setReg_delayTimer (r : Reg) (b : Byte) : (s.setReg r b).delayTimer = s.delayTimer := rfl
@[simp] theorem State.setReg_soundTimer (r : Reg) (b : Byte) : (s.setReg r b).soundTimer = s.soundTimer := rfl
@[simp] theorem State.setReg_mem (r : Reg) (b : Byte) : (s.setReg r b).mem = s.mem := rfl
@[simp] theorem State.setReg_display (r : Reg) (b : Byte) : (s.setReg r b).display = s.display := rfl
@[simp] theorem State.setReg_keyState (r : Reg) (b : Byte) : (s.setReg r b).keyState = s.keyState := rfl
@[simp] theorem State.setReg_waitingForKey (r : Reg) (b : Byte) : (s.setReg r b).waitingForKey = s.waitingForKey := rfl
@[simp] theorem State.setReg_waitingPhase (r : Reg) (b : Byte) : (s.setReg r b).waitingPhase = s.waitingPhase := rfl
@[simp] theorem State.setReg_waitingTrackedKey (r : Reg) (b : Byte) : (s.setReg r b).waitingTrackedKey = s.waitingTrackedKey := rfl
@[simp] theorem State.setReg_waitingTargetRegister (r : Reg) (b : Byte) : (s.setReg r b).waitingTargetRegister = s.waitingTargetRegister := rfl
@[simp] theorem State.setReg_activePlayer (r : Reg) (b : Byte) : (s.setReg r b).activePlayer = s.activePlayer := rfl
@[simp] theorem State.setReg_syncBarrier (r : Reg) (b : Byte) : (s.setReg r b).syncBarrier = s.syncBarrier := rfl
@[simp] theorem State.setReg_drawFlag (r : Reg) (b : Byte) : (s.setReg r b).drawFlag = s.drawFlag := rfl
@[simp] theorem State.setReg_halted (r : Reg) (b : Byte) : (s.setReg r b).halted = s.halted := rfl
@[simp] theorem State.setReg_rng (r : Reg) (b : Byte) : (s.setReg r b).rng = s.rng := rfl
@[simp] theorem State.setReg_cfg (r : Reg) (b : Byte) : (s.setReg r b).cfg = s.cfg := rfl
@[simp] theorem State.setReg_inputs (r : Reg) (b : Byte) : (s.setReg r b).inputs = s.inputs := rfl
@[simp] theorem State.setReg_script (r : Reg) (b : Byte) : (s.setReg r b).script = s.script := rfl
@[simp] theorem State.setReg_events (r : Reg) (b : Byte) : (s.setReg r b).events = s.events := rfl
@[simp] theorem State.setReg_status (r : Reg) (b : Byte) : (s.setReg r b).status = s.status := rfl
@[simp] theorem State.setReg_seedDraws (r : Reg) (b : Byte) : (s.setReg r b).seedDraws = s.seedDraws := rfl
@[simp] theorem State.setReg_readByte (r : Reg) (b : Byte) (x : Word) : (s.setReg r b).readByte x = s.readByte x := rfl
@[simp] theorem State.setReg_pixel (r : Reg) (b : Byte) (x y : Nat) : (s.setReg r b).pixel x y = s.pixel x y := rfl

/-! ## setPc -/

@[simp] theorem State.setPc_v (a : Word) : (s.setPc a).v = s.v := rfl
@[simp] theorem State.setPc_index (a : Word) : (s.setPc a).index = s.index := rfl
@[simp] theorem State.setPc_pc (a : Word) : (s.setPc a).pc = a := rfl
@[simp] theorem State.setPc_stack (a : Word) : (s.setPc a).stack = s.stack := rfl
@[simp] theorem State.setPc_sp (a : Word) : (s.setPc a).sp = s.sp := rfl
@[simp] theorem State.setPc_delayTimer (a : Word) : (s.setPc a).delayTimer = s.delayTimer := rfl
@[simp] theorem State.setPc_soundTimer (a : Word) : (s.setPc a).soundTimer = s.soundTimer := rfl
@[simp] theorem State.setPc_mem (a : Word) : (s.setPc a).mem = s.mem := rfl
@[simp] theorem State.setPc_display (a : Word) : (s.setPc a).display = s.display := rfl
@[simp] theorem State.setPc_keyState (a : Word) : (s.setPc a).keyState = s.keyState := rfl
@[simp] theorem State.setPc_waitingForKey (a : Word) : (s.setPc a).waitingForKey = s.waitingForKey := rfl
@[simp] theorem State.setPc_waitingPhase (a : Word) : (s.setPc a).waitingPhase = s.waitingPhase := rfl
@[simp] theorem State.setPc_waitingTrackedKey (a : Word) : (s.setPc a).waitingTrackedKey = s.waitingTrackedKey := rfl
@[simp] theorem State.setPc_waitingTargetRegister (a : Word) : (s.setPc a).waitingTargetRegister = s.waitingTargetRegister := rfl
@[simp] theorem State.setPc_activePlayer (a : Word) : (s.setPc a).activePlayer = s.activePlayer := rfl
@[simp] theorem State.setPc_syncBarrier (a : Word) : (s.setPc a).syncBarrier = s.syncBarrier := rfl
@[simp] theorem State.setPc_drawFlag (a : Word) : (s.setPc a).drawFlag = s.drawFlag := rfl
@[simp] theorem State.setPc_halted (a : Word) : (s.setPc a).halted = s.halted := rfl
@[simp] theorem State.setPc_rng (a : Word) : (s.setPc a).rng = s.rng := rfl
@[simp] theorem State.setPc_cfg (a : Word) : (s.setPc a).cfg = s.cfg := rfl
@[simp] theorem State.setPc_inputs (a : Word) : (s.setPc a).inputs = s.inputs := rfl
@[simp] theorem State.setPc_script (a : Word) : (s.setPc a).script = s.script := rfl
@[simp] theorem State.setPc_events (a : Word) : (s.setPc a).events = s.events := rfl
@[simp] theorem State.setPc_status (a : Word) : (s.setPc a).status = s.status := rfl
@[simp] theorem State.setPc_seedDraws (a : Word) : (s.setPc a).seedDraws = s.seedDraws := rfl
@[simp] theorem State.setPc_reg (a : Word) (x : Reg) : (s.setPc a).reg x = s.reg x := rfl
@[simp] theorem State.setPc_readByte (a : Word) (x : Word) : (s.setPc a).readByte x = s.readByte x := rfl
@[simp] theorem State.setPc_pixel (a : Word) (x y : Nat) : (s.setPc a).pixel x y = s.pixel x y := rfl

/-! ## setIndex -/

@[simp] theorem State.setIndex_v (a : Word) : (s.setIndex a).v = s.v := rfl
@[simp] theorem State.setIndex_index (a : Word) : (s.setIndex a).index = a := rfl
@[simp] theorem State.setIndex_pc (a : Word) : (s.setIndex a).pc = s.pc := rfl
@[simp] theorem State.setIndex_stack (a : Word) : (s.setIndex a).stack = s.stack := rfl
@[simp] theorem State.setIndex_sp (a : Word) : (s.setIndex a).sp = s.sp := rfl
@[simp] theorem State.setIndex_delayTimer (a : Word) : (s.setIndex a).delayTimer = s.delayTimer := rfl
@[simp] theorem State.setIndex_soundTimer (a : Word) : (s.setIndex a).soundTimer = s.soundTimer := rfl
@[simp] theorem State.setIndex_mem (a : Word) : (s.setIndex a).mem = s.mem := rfl
@[simp] theorem State.setIndex_display (a : Word) : (s.setIndex a).display = s.display := rfl
@[simp] theorem State.setIndex_keyState (a : Word) : (s.setIndex a).keyState = s.keyState := rfl
@[simp] theorem State.setIndex_waitingForKey (a : Word) : (s.setIndex a).waitingForKey = s.waitingForKey := rfl
@[simp] theorem State.setIndex_waitingPhase (a : Word) : (s.setIndex a).waitingPhase = s.waitingPhase := rfl
@[simp] theorem State.setIndex_waitingTrackedKey (a : Word) : (s.setIndex a).waitingTrackedKey = s.waitingTrackedKey := rfl
@[simp] theorem State.setIndex_waitingTargetRegister (a : Word) : (s.setIndex a).waitingTargetRegister = s.waitingTargetRegister := rfl
@[simp] theorem State.setIndex_activePlayer (a : Word) : (s.setIndex a).activePlayer = s.activePlayer := rfl
@[simp] theorem State.setIndex_syncBarrier (a : Word) : (s.setIndex a).syncBarrier = s.syncBarrier := rfl
@[simp] theorem State.setIndex_drawFlag (a : Word) : (s.setIndex a).drawFlag = s.drawFlag := rfl
@[simp] theorem State.setIndex_halted (a : Word) : (s.setIndex a).halted = s.halted := rfl
@[simp] theorem State.setIndex_rng (a : Word) : (s.setIndex a).rng = s.rng := rfl
@[simp] theorem State.setIndex_cfg (a : Word) : (s.setIndex a).cfg = s.cfg := rfl
@[simp] theorem State.setIndex_inputs (a : Word) : (s.setIndex a).inputs = s.inputs := rfl
@[simp] theorem State.setIndex_script (a : Word) : (s.setIndex a).script = s.script := rfl
@[simp] theorem State.setIndex_events (a : Word) : (s.setIndex a).events = s.events := rfl
@[simp] theorem State.setIndex_status (a : Word) : (s.setIndex a).status = s.status := rfl
@[simp] theorem State.setIndex_seedDraws (a : Word) : (s.setIndex a).seedDraws = s.seedDraws := rfl
@[simp] theorem State.setIndex_reg (a : Word) (x : Reg) : (s.setIndex a).reg x = s.reg x := rfl
@[simp] theorem State.setIndex_readByte (a : Word) (x : Word) : (s.setIndex a).readByte x = s.readByte x := rfl
@[simp] theorem State.setIndex_pixel (a : Word) (x y : Nat) : (s.setIndex a).pixel x y = s.pixel x y := rfl

/-! ## writeByte -/

@[simp] theorem State.writeByte_v (a : Word) (b : Byte) : (s.writeByte a b).v = s.v := rfl
@[simp] theorem State.writeByte_index (a : Word) (b : Byte) : (s.writeByte a b).index = s.index := rfl
@[simp] theorem State.writeByte_pc (a : Word) (b : Byte) : (s.writeByte a b).pc = s.pc := rfl
@[simp] theorem State.writeByte_stack (a : Word) (b : Byte) : (s.writeByte a b).stack = s.stack := rfl
@[simp] theorem State.writeByte_sp (a : Word) (b : Byte) : (s.writeByte a b).sp = s.sp := rfl
@[simp] theorem State.writeByte_delayTimer (a : Word) (b : Byte) : (s.writeByte a b).delayTimer = s.delayTimer := rfl
@[simp] theorem State.writeByte_soundTimer (a : Word) (b : Byte) : (s.writeByte a b).soundTimer = s.soundTimer := rfl
theorem State.writeByte_mem (a : Word) (b : Byte) : (s.writeByte a b).mem = cellsWrite (memoryAtReset s.cfg.layout) s.mem (wrap12 a).toNat b := rfl
@[simp] theorem State.writeByte_display (a : Word) (b : Byte) : (s.writeByte a b).display = s.display := rfl
@[simp] theorem State.writeByte_keyState (a : Word) (b : Byte) : (s.writeByte a b).keyState = s.keyState := rfl
@[simp] theorem State.writeByte_waitingForKey (a : Word) (b : Byte) : (s.writeByte a b).waitingForKey = s.waitingForKey := rfl
@[simp] theorem State.writeByte_waitingPhase (a : Word) (b : Byte) : (s.writeByte a b).waitingPhase = s.waitingPhase := rfl
@[simp] theorem State.writeByte_waitingTrackedKey (a : Word) (b : Byte) : (s.writeByte a b).waitingTrackedKey = s.waitingTrackedKey := rfl
@[simp] theorem State.writeByte_waitingTargetRegister (a : Word) (b : Byte) : (s.writeByte a b).waitingTargetRegister = s.waitingTargetRegister := rfl
@[simp] theorem State.writeByte_activePlayer (a : Word) (b : Byte) : (s.writeByte a b).activePlayer = s.activePlayer := rfl
@[simp] theorem State.writeByte_syncBarrier (a : Word) (b : Byte) : (s.writeByte a b).syncBarrier = s.syncBarrier := rfl
@[simp] theorem State.writeByte_drawFlag (a : Word) (b : Byte) : (s.writeByte a b).drawFlag = s.drawFlag := rfl
@[simp] theorem State.writeByte_halted (a : Word) (b : Byte) : (s.writeByte a b).halted = s.halted := rfl
@[simp] theorem State.writeByte_rng (a : Word) (b : Byte) : (s.writeByte a b).rng = s.rng := rfl
@[simp] theorem State.writeByte_cfg (a : Word) (b : Byte) : (s.writeByte a b).cfg = s.cfg := rfl
@[simp] theorem State.writeByte_inputs (a : Word) (b : Byte) : (s.writeByte a b).inputs = s.inputs := rfl
@[simp] theorem State.writeByte_script (a : Word) (b : Byte) : (s.writeByte a b).script = s.script := rfl
@[simp] theorem State.writeByte_events (a : Word) (b : Byte) : (s.writeByte a b).events = s.events := rfl
@[simp] theorem State.writeByte_status (a : Word) (b : Byte) : (s.writeByte a b).status = s.status := rfl
@[simp] theorem State.writeByte_seedDraws (a : Word) (b : Byte) : (s.writeByte a b).seedDraws = s.seedDraws := rfl
@[simp] theorem State.writeByte_reg (a : Word) (b : Byte) (x : Reg) : (s.writeByte a b).reg x = s.reg x := rfl
@[simp] theorem State.writeByte_pixel (a : Word) (b : Byte) (x y : Nat) : (s.writeByte a b).pixel x y = s.pixel x y := rfl

/-! ## push -/

@[simp] theorem State.push_v (a : Word) (h : s.sp.val < 16) : (s.push a h).v = s.v := rfl
@[simp] theorem State.push_index (a : Word) (h : s.sp.val < 16) : (s.push a h).index = s.index := rfl
@[simp] theorem State.push_pc (a : Word) (h : s.sp.val < 16) : (s.push a h).pc = s.pc := rfl
theorem State.push_stack (a : Word) (h : s.sp.val < 16) : (s.push a h).stack = s.stack.set s.sp.val a h := rfl
@[simp] theorem State.push_sp (a : Word) (h : s.sp.val < 16) : (s.push a h).sp = ⟨s.sp.val + 1, by omega⟩ := rfl
@[simp] theorem State.push_delayTimer (a : Word) (h : s.sp.val < 16) : (s.push a h).delayTimer = s.delayTimer := rfl
@[simp] theorem State.push_soundTimer (a : Word) (h : s.sp.val < 16) : (s.push a h).soundTimer = s.soundTimer := rfl
@[simp] theorem State.push_mem (a : Word) (h : s.sp.val < 16) : (s.push a h).mem = s.mem := rfl
@[simp] theorem State.push_display (a : Word) (h : s.sp.val < 16) : (s.push a h).display = s.display := rfl
@[simp] theorem State.push_keyState (a : Word) (h : s.sp.val < 16) : (s.push a h).keyState = s.keyState := rfl
@[simp] theorem State.push_waitingForKey (a : Word) (h : s.sp.val < 16) : (s.push a h).waitingForKey = s.waitingForKey := rfl
@[simp] theorem State.push_waitingPhase (a : Word) (h : s.sp.val < 16) : (s.push a h).waitingPhase = s.waitingPhase := rfl
@[simp] theorem State.push_waitingTrackedKey (a : Word) (h : s.sp.val < 16) : (s.push a h).waitingTrackedKey = s.waitingTrackedKey := rfl
@[simp] theorem State.push_waitingTargetRegister (a : Word) (h : s.sp.val < 16) : (s.push a h).waitingTargetRegister = s.waitingTargetRegister := rfl
@[simp] theorem State.push_activePlayer (a : Word) (h : s.sp.val < 16) : (s.push a h).activePlayer = s.activePlayer := rfl
@[simp] theorem State.push_syncBarrier (a : Word) (h : s.sp.val < 16) : (s.push a h).syncBarrier = s.syncBarrier := rfl
@[simp] theorem State.push_drawFlag (a : Word) (h : s.sp.val < 16) : (s.push a h).drawFlag = s.drawFlag := rfl
@[simp] theorem State.push_halted (a : Word) (h : s.sp.val < 16) : (s.push a h).halted = s.halted := rfl
@[simp] theorem State.push_rng (a : Word) (h : s.sp.val < 16) : (s.push a h).rng = s.rng := rfl
@[simp] theorem State.push_cfg (a : Word) (h : s.sp.val < 16) : (s.push a h).cfg = s.cfg := rfl
@[simp] theorem State.push_inputs (a : Word) (h : s.sp.val < 16) : (s.push a h).inputs = s.inputs := rfl
@[simp] theorem State.push_script (a : Word) (h : s.sp.val < 16) : (s.push a h).script = s.script := rfl
@[simp] theorem State.push_events (a : Word) (h : s.sp.val < 16) : (s.push a h).events = s.events := rfl
@[simp] theorem State.push_status (a : Word) (h : s.sp.val < 16) : (s.push a h).status = s.status := rfl
@[simp] theorem State.push_seedDraws (a : Word) (h : s.sp.val < 16) : (s.push a h).seedDraws = s.seedDraws := rfl
@[simp] theorem State.push_reg (a : Word) (h : s.sp.val < 16) (x : Reg) : (s.push a h).reg x = s.reg x := rfl
@[simp] theorem State.push_readByte (a : Word) (h : s.sp.val < 16) (x : Word) : (s.push a h).readByte x = s.readByte x := rfl
@[simp] theorem State.push_pixel (a : Word) (h : s.sp.val < 16) (x y : Nat) : (s.push a h).pixel x y = s.pixel x y := rfl

/-! ## dropTop -/

@[simp] theorem State.dropTop_v : (s.dropTop).v = s.v := rfl
@[simp] theorem State.dropTop_index : (s.dropTop).index = s.index := rfl
@[simp] theorem State.dropTop_pc : (s.dropTop).pc = s.pc := rfl
@[simp] theorem State.dropTop_stack : (s.dropTop).stack = s.stack := rfl
@[simp] theorem State.dropTop_sp : (s.dropTop).sp = ⟨s.sp.val - 1, by have := s.sp.isLt; omega⟩ := rfl
@[simp] theorem State.dropTop_delayTimer : (s.dropTop).delayTimer = s.delayTimer := rfl
@[simp] theorem State.dropTop_soundTimer : (s.dropTop).soundTimer = s.soundTimer := rfl
@[simp] theorem State.dropTop_mem : (s.dropTop).mem = s.mem := rfl
@[simp] theorem State.dropTop_display : (s.dropTop).display = s.display := rfl
@[simp] theorem State.dropTop_keyState : (s.dropTop).keyState = s.keyState := rfl
@[simp] theorem State.dropTop_waitingForKey : (s.dropTop).waitingForKey = s.waitingForKey := rfl
@[simp] theorem State.dropTop_waitingPhase : (s.dropTop).waitingPhase = s.waitingPhase := rfl
@[simp] theorem State.dropTop_waitingTrackedKey : (s.dropTop).waitingTrackedKey = s.waitingTrackedKey := rfl
@[simp] theorem State.dropTop_waitingTargetRegister : (s.dropTop).waitingTargetRegister = s.waitingTargetRegister := rfl
@[simp] theorem State.dropTop_activePlayer : (s.dropTop).activePlayer = s.activePlayer := rfl
@[simp] theorem State.dropTop_syncBarrier : (s.dropTop).syncBarrier = s.syncBarrier := rfl
@[simp] theorem State.dropTop_drawFlag : (s.dropTop).drawFlag = s.drawFlag := rfl
@[simp] theorem State.dropTop_halted : (s.dropTop).halted = s.halted := rfl
@[simp] theorem State.dropTop_rng : (s.dropTop).rng = s.rng := rfl
@[simp] theorem State.dropTop_cfg : (s.dropTop).cfg = s.cfg := rfl
@[simp] theorem State.dropTop_inputs : (s.dropTop).inputs = s.inputs := rfl
@[simp] theorem State.dropTop_script : (s.dropTop).script = s.script := rfl
@[simp] theorem State.dropTop_events : (s.dropTop).events = s.events := rfl
@[simp] theorem State.dropTop_status : (s.dropTop).status = s.status := rfl
@[simp] theorem State.dropTop_seedDraws : (s.dropTop).seedDraws = s.seedDraws := rfl
@[simp] theorem State.dropTop_reg  (x : Reg) : (s.dropTop).reg x = s.reg x := rfl
@[simp] theorem State.dropTop_readByte  (x : Word) : (s.dropTop).readByte x = s.readByte x := rfl
@[simp] theorem State.dropTop_pixel  (x y : Nat) : (s.dropTop).pixel x y = s.pixel x y := rfl

/-! ## halt -/

@[simp] theorem State.halt_v : (s.halt).v = s.v := rfl
@[simp] theorem State.halt_index : (s.halt).index = s.index := rfl
@[simp] theorem State.halt_pc : (s.halt).pc = s.pc := rfl
@[simp] theorem State.halt_stack : (s.halt).stack = s.stack := rfl
@[simp] theorem State.halt_sp : (s.halt).sp = s.sp := rfl
@[simp] theorem State.halt_delayTimer : (s.halt).delayTimer = s.delayTimer := rfl
@[simp] theorem State.halt_soundTimer : (s.halt).soundTimer = s.soundTimer := rfl
@[simp] theorem State.halt_mem : (s.halt).mem = s.mem := rfl
@[simp] theorem State.halt_display : (s.halt).display = s.display := rfl
@[simp] theorem State.halt_keyState : (s.halt).keyState = s.keyState := rfl
@[simp] theorem State.halt_waitingForKey : (s.halt).waitingForKey = s.waitingForKey := rfl
@[simp] theorem State.halt_waitingPhase : (s.halt).waitingPhase = s.waitingPhase := rfl
@[simp] theorem State.halt_waitingTrackedKey : (s.halt).waitingTrackedKey = s.waitingTrackedKey := rfl
@[simp] theorem State.halt_waitingTargetRegister : (s.halt).waitingTargetRegister = s.waitingTargetRegister := rfl
@[simp] theorem State.halt_activePlayer : (s.halt).activePlayer = s.activePlayer := rfl
@[simp] theorem State.halt_syncBarrier : (s.halt).syncBarrier = s.syncBarrier := rfl
@[simp] theorem State.halt_drawFlag : (s.halt).drawFlag = s.drawFlag := rfl
@[simp] theorem State.halt_halted : (s.halt).halted = true := rfl
@[simp] theorem State.halt_rng : (s.halt).rng = s.rng := rfl
@[simp] theorem State.halt_cfg : (s.halt).cfg = s.cfg := rfl
@[simp] theorem State.halt_inputs : (s.halt).inputs = s.inputs := rfl
@[simp] theorem State.halt_script : (s.halt).script = s.script := rfl
@[simp] theorem State.halt_events : (s.halt).events = s.events := rfl
@[simp] theorem State.halt_status : (s.halt).status = s.status := rfl
@[simp] theorem State.halt_seedDraws : (s.halt).seedDraws = s.seedDraws := rfl
@[simp] theorem State.halt_reg  (x : Reg) : (s.halt).reg x = s.reg x := rfl
@[simp] theorem State.halt_readByte  (x : Word) : (s.halt).readByte x = s.readByte x := rfl
@[simp] theorem State.halt_pixel  (x y : Nat) : (s.halt).pixel x y = s.pixel x y := rfl

/-! ## emit -/

@[simp] theorem State.emit_v (e : Event) : (s.emit e).v = s.v := rfl
@[simp] theorem State.emit_index (e : Event) : (s.emit e).index = s.index := rfl
@[simp] theorem State.emit_pc (e : Event) : (s.emit e).pc = s.pc := rfl
@[simp] theorem State.emit_stack (e : Event) : (s.emit e).stack = s.stack := rfl
@[simp] theorem State.emit_sp (e : Event) : (s.emit e).sp = s.sp := rfl
@[simp] theorem State.emit_delayTimer (e : Event) : (s.emit e).delayTimer = s.delayTimer := rfl
@[simp] theorem State.emit_soundTimer (e : Event) : (s.emit e).soundTimer = s.soundTimer := rfl
@[simp] theorem State.emit_mem (e : Event) : (s.emit e).mem = s.mem := rfl
@[simp] theorem State.emit_display (e : Event) : (s.emit e).display = s.display := rfl
@[simp] theorem State.emit_keyState (e : Event) : (s.emit e).keyState = s.keyState := rfl
@[simp] theorem State.emit_waitingForKey (e : Event) : (s.emit e).waitingForKey = s.waitingForKey := rfl
@[simp] theorem State.emit_waitingPhase (e : Event) : (s.emit e).waitingPhase = s.waitingPhase := rfl
@[simp] theorem State.emit_waitingTrackedKey (e : Event) : (s.emit e).waitingTrackedKey = s.waitingTrackedKey := rfl
@[simp] theorem State.emit_waitingTargetRegister (e : Event) : (s.emit e).waitingTargetRegister = s.waitingTargetRegister := rfl
@[simp] theorem State.emit_activePlayer (e : Event) : (s.emit e).activePlayer = s.activePlayer := rfl
@[simp] theorem State.emit_syncBarrier (e : Event) : (s.emit e).syncBarrier = s.syncBarrier := rfl
@[simp] theorem State.emit_drawFlag (e : Event) : (s.emit e).drawFlag = s.drawFlag := rfl
@[simp] theorem State.emit_halted (e : Event) : (s.emit e).halted = s.halted := rfl
@[simp] theorem State.emit_rng (e : Event) : (s.emit e).rng = s.rng := rfl
@[simp] theorem State.emit_cfg (e : Event) : (s.emit e).cfg = s.cfg := rfl
@[simp] theorem State.emit_inputs (e : Event) : (s.emit e).inputs = s.inputs := rfl
@[simp] theorem State.emit_script (e : Event) : (s.emit e).script = s.script := rfl
@[simp] theorem State.emit_events (e : Event) : (s.emit e).events = s.events ++ [e] := rfl
@[simp] theorem State.emit_status (e : Event) : (s.emit e).status = s.status := rfl
@[simp] theorem State.emit_seedDraws (e : Event) : (s.emit e).seedDraws = s.seedDraws := rfl
@[simp] theorem State.emit_reg (e : Event) (x : Reg) : (s.emit e).reg x = s.reg x := rfl
@[simp] theorem State.emit_readByte (e : Event) (x : Word) : (s.emit e).readByte x = s.readByte x := rfl
@[simp] theorem State.emit_pixel (e : Event) (x y : Nat) : (s.emit e).pixel x y = s.pixel x y := rfl

/-! ## selectPlayer -/

@[simp] theorem State.selectPlayer_v (p : BitVec 4) : (s.selectPlayer p).v = s.v := rfl
@[simp] theorem State.selectPlayer_index (p : BitVec 4) : (s.selectPlayer p).index = s.index := rfl
@[simp] theorem State.selectPlayer_pc (p : BitVec 4) : (s.selectPlayer p).pc = s.pc := rfl
@[simp] theorem State.selectPlayer_stack (p : BitVec 4) : (s.selectPlayer p).stack = s.stack := rfl
@[simp] theorem State.selectPlayer_sp (p : BitVec 4) : (s.selectPlayer p).sp = s.sp := rfl
@[simp] theorem State.selectPlayer_delayTimer (p : BitVec 4) : (s.selectPlayer p).delayTimer = s.delayTimer := rfl
@[simp] theorem State.selectPlayer_soundTimer (p : BitVec 4) : (s.selectPlayer p).soundTimer = s.soundTimer := rfl
@[simp] theorem State.selectPlayer_mem (p : BitVec 4) : (s.selectPlayer p).mem = s.mem := rfl
@[simp] theorem State.selectPlayer_display (p : BitVec 4) : (s.selectPlayer p).display = s.display := rfl
@[simp] theorem State.selectPlayer_keyState (p : BitVec 4) : (s.selectPlayer p).keyState = s.keyState := rfl
@[simp] theorem State.selectPlayer_waitingForKey (p : BitVec 4) : (s.selectPlayer p).waitingForKey = s.waitingForKey := rfl
@[simp] theorem State.selectPlayer_waitingPhase (p : BitVec 4) : (s.selectPlayer p).waitingPhase = s.waitingPhase := rfl
@[simp] theorem State.selectPlayer_waitingTrackedKey (p : BitVec 4) : (s.selectPlayer p).waitingTrackedKey = s.waitingTrackedKey := rfl
@[simp] theorem State.selectPlayer_waitingTargetRegister (p : BitVec 4) : (s.selectPlayer p).waitingTargetRegister = s.waitingTargetRegister := rfl
@[simp] theorem State.selectPlayer_activePlayer (p : BitVec 4) : (s.selectPlayer p).activePlayer = p := rfl
@[simp] theorem State.selectPlayer_syncBarrier (p : BitVec 4) : (s.selectPlayer p).syncBarrier = s.syncBarrier := rfl
@[simp] theorem State.selectPlayer_drawFlag (p : BitVec 4) : (s.selectPlayer p).drawFlag = s.drawFlag := rfl
@[simp] theorem State.selectPlayer_halted (p : BitVec 4) : (s.selectPlayer p).halted = s.halted := rfl
@[simp] theorem State.selectPlayer_rng (p : BitVec 4) : (s.selectPlayer p).rng = s.rng := rfl
@[simp] theorem State.selectPlayer_cfg (p : BitVec 4) : (s.selectPlayer p).cfg = s.cfg := rfl
@[simp] theorem State.selectPlayer_inputs (p : BitVec 4) : (s.selectPlayer p).inputs = s.inputs := rfl
@[simp] theorem State.selectPlayer_script (p : BitVec 4) : (s.selectPlayer p).script = s.script := rfl
@[simp] theorem State.selectPlayer_events (p : BitVec 4) : (s.selectPlayer p).events = s.events := rfl
@[simp] theorem State.selectPlayer_status (p : BitVec 4) : (s.selectPlayer p).status = s.status := rfl
@[simp] theorem State.selectPlayer_seedDraws (p : BitVec 4) : (s.selectPlayer p).seedDraws = s.seedDraws := rfl
@[simp] theorem State.selectPlayer_reg (p : BitVec 4) (x : Reg) : (s.selectPlayer p).reg x = s.reg x := rfl
@[simp] theorem State.selectPlayer_readByte (p : BitVec 4) (x : Word) : (s.selectPlayer p).readByte x = s.readByte x := rfl
@[simp] theorem State.selectPlayer_pixel (p : BitVec 4) (x y : Nat) : (s.selectPlayer p).pixel x y = s.pixel x y := rfl

/-! ## report -/

@[simp] theorem State.report_v (r : Status) : (s.report r).v = s.v := rfl
@[simp] theorem State.report_index (r : Status) : (s.report r).index = s.index := rfl
@[simp] theorem State.report_pc (r : Status) : (s.report r).pc = s.pc := rfl
@[simp] theorem State.report_stack (r : Status) : (s.report r).stack = s.stack := rfl
@[simp] theorem State.report_sp (r : Status) : (s.report r).sp = s.sp := rfl
@[simp] theorem State.report_delayTimer (r : Status) : (s.report r).delayTimer = s.delayTimer := rfl
@[simp] theorem State.report_soundTimer (r : Status) : (s.report r).soundTimer = s.soundTimer := rfl
@[simp] theorem State.report_mem (r : Status) : (s.report r).mem = s.mem := rfl
@[simp] theorem State.report_display (r : Status) : (s.report r).display = s.display := rfl
@[simp] theorem State.report_keyState (r : Status) : (s.report r).keyState = s.keyState := rfl
@[simp] theorem State.report_waitingForKey (r : Status) : (s.report r).waitingForKey = s.waitingForKey := rfl
@[simp] theorem State.report_waitingPhase (r : Status) : (s.report r).waitingPhase = s.waitingPhase := rfl
@[simp] theorem State.report_waitingTrackedKey (r : Status) : (s.report r).waitingTrackedKey = s.waitingTrackedKey := rfl
@[simp] theorem State.report_waitingTargetRegister (r : Status) : (s.report r).waitingTargetRegister = s.waitingTargetRegister := rfl
@[simp] theorem State.report_activePlayer (r : Status) : (s.report r).activePlayer = s.activePlayer := rfl
@[simp] theorem State.report_syncBarrier (r : Status) : (s.report r).syncBarrier = s.syncBarrier := rfl
@[simp] theorem State.report_drawFlag (r : Status) : (s.report r).drawFlag = s.drawFlag := rfl
@[simp] theorem State.report_halted (r : Status) : (s.report r).halted = s.halted := rfl
@[simp] theorem State.report_rng (r : Status) : (s.report r).rng = s.rng := rfl
@[simp] theorem State.report_cfg (r : Status) : (s.report r).cfg = s.cfg := rfl
@[simp] theorem State.report_inputs (r : Status) : (s.report r).inputs = s.inputs := rfl
@[simp] theorem State.report_script (r : Status) : (s.report r).script = s.script := rfl
@[simp] theorem State.report_events (r : Status) : (s.report r).events = s.events := rfl
@[simp] theorem State.report_status (r : Status) : (s.report r).status = r := rfl
@[simp] theorem State.report_seedDraws (r : Status) : (s.report r).seedDraws = s.seedDraws := rfl
@[simp] theorem State.report_reg (r : Status) (x : Reg) : (s.report r).reg x = s.reg x := rfl
@[simp] theorem State.report_readByte (r : Status) (x : Word) : (s.report r).readByte x = s.readByte x := rfl
@[simp] theorem State.report_pixel (r : Status) (x y : Nat) : (s.report r).pixel x y = s.pixel x y := rfl

end Sys2Proof.Machine
end

