-- ==== Sys2Proof/Laws/Access.lean ====
section
/-! SUPPORT. One law per access: 12-bit addresses, memory, registers, pixels, flags and keys. -/

namespace Sys2Proof.Machine

/-! ## Addresses -/

@[simp] theorem wrap12_toNat (a : Word) : (wrap12 a).toNat = a.toNat % 4096 := by
  simp [wrap12, BitVec.toNat_umod]

theorem wrap12_lt (a : Word) : (wrap12 a).toNat < 4096 := by
  rw [wrap12_toNat]; exact Nat.mod_lt _ (by decide)

@[simp] theorem add12_toNat (a b : Word) : (add12 a b).toNat = (a.toNat + b.toNat) % 4096 := by
  rw [add12, wrap12_toNat, BitVec.toNat_add]
  omega

theorem add12_lt (a b : Word) : (add12 a b).toNat < 4096 := wrap12_lt _

theorem wrap12_eq_iff (a b : Word) : wrap12 a = wrap12 b ↔ a.toNat % 4096 = b.toNat % 4096 := by
  rw [← BitVec.toNat_inj, wrap12_toNat, wrap12_toNat]

/-- `add12` as the statements write it. -/
theorem add12_eq_ofNat (a b : Word) : add12 a b = BitVec.ofNat 16 ((a.toNat + b.toNat) % 4096) := by
  apply BitVec.eq_of_toNat_eq
  rw [add12_toNat, BitVec.toNat_ofNat]
  omega

@[simp] theorem addrOperand_toNat (nnn : Addr) : (addrOperand nnn).toNat = nnn.toNat := by
  have := nnn.isLt
  simp only [addrOperand, BitVec.toNat_setWidth]
  omega

@[simp] theorem offsetOperand_toNat (b : Byte) : (offsetOperand b).toNat = b.toNat := by
  have := b.isLt
  simp only [offsetOperand, BitVec.toNat_setWidth]
  omega

/-! ## Memory -/

/-- Reading a byte after writing one. -/
theorem State.readByte_writeByte (s : State) (a b : Word) (v : Byte) :
    (s.writeByte a v).readByte b = if b.toNat % 4096 = a.toNat % 4096 then v else s.readByte b := by
  simp only [State.readByte, State.writeByte, cellsRead_write, wrap12_toNat]

/-- A read depends on the address mod 4096 only. -/
theorem State.readByte_congr (s : State) {a b : Word} (h : a.toNat % 4096 = b.toNat % 4096) :
    s.readByte a = s.readByte b := by
  simp only [State.readByte, wrap12_toNat, h]

/-- Writing a byte keeps the canonical form of memory. -/
theorem State.writeByte_wf (s : State) (a : Word) (v : Byte) (h : Memory.wf s.cfg.layout s.mem) :
    Memory.wf s.cfg.layout (s.writeByte a v).mem :=
  cellsWrite_canonical h _ _ (wrap12_lt a)

theorem reset_memory_wf : Memory.wf State.reset.cfg.layout State.reset.mem := by decide

/-! ## Registers -/

/-- Reading a register after writing one. -/
theorem State.reg_setReg (s : State) (r q : Reg) (b : Byte) : (s.setReg r b).reg q = if q = r then b else s.reg q := by
  simp only [State.reg, State.setReg, Vector.getElem_set, BitVec.toNat_inj]
  by_cases h : q = r
  · simp [h]
  · have : ¬ r = q := fun e => h e.symm
    simp [h, this]

@[simp] theorem State.reg_setReg_same (s : State) (r : Reg) (b : Byte) : (s.setReg r b).reg r = b := by
  simp [State.reg_setReg]

/-! ## Flags -/

/-- `Write8` writes the two registers and nothing else. -/
theorem State.write8_eq (s : State) (x : Reg) (r : Byte) (f : Bool) :
    s.write8 x r f = { s with v := (s.write8 x r f).v } := by
  unfold State.write8; split <;> rfl

theorem State.reg_write8 (s : State) (x q : Reg) (r : Byte) (f : Bool) :
    (s.write8 x r f).reg q
      = if q = VF ∧ (s.cfg.vfWriteLast = true ∨ x ≠ VF) then flagByte f else if q = x then r else s.reg q := by
  unfold State.write8
  by_cases hv : s.cfg.vfWriteLast = true
  · simp [hv, State.reg_setReg]
  · by_cases hx : q = x
    · subst hx
      by_cases hq : q = VF <;> simp [hv, hq]
    · by_cases hq : q = VF
      · subst hq
        have : x ≠ VF := fun e => hx e.symm
        simp [hv, hx, this, State.reg_setReg]
      · simp [hv, hx, hq, State.reg_setReg]

theorem State.writeLogic_eq (s : State) (x : Reg) (r : Byte) :
    s.writeLogic x r = { s with v := (s.writeLogic x r).v } := rfl

theorem State.reg_writeLogic (s : State) (x q : Reg) (r : Byte) :
    (s.writeLogic x r).reg q = if q = VF then 0#8 else if q = x then r else s.reg q := by
  simp [State.writeLogic, State.reg_setReg]

/-! ## Skips -/

theorem State.skipIf_eq (s : State) (c : Bool) : s.skipIf c = { s with pc := (s.skipIf c).pc } := by
  cases c <;> rfl

theorem State.skipIf_pc_toNat (s : State) (c : Bool) :
    (s.skipIf c).pc.toNat = if c then (s.pc.toNat + 2) % 4096 else s.pc.toNat := by
  cases c <;> simp [State.skipIf, State.advancePc]

/-! ## Keys -/

/-- The lowest pressed key, as the spec words it. -/
theorem lowestPressed_eq_some (keys : Keys) (k : BitVec 4) :
    lowestPressed keys = some k ↔ keyAt keys k = true ∧ ∀ j : BitVec 4, j < k → keyAt keys j = false := by
  have hmem : ∀ j : BitVec 4, ∃ h : j.toNat < ((List.range 16).map (BitVec.ofNat 4)).length,
      ((List.range 16).map (BitVec.ofNat 4))[j.toNat]'h = j := by decide
  unfold lowestPressed
  rw [List.find?_eq_some_iff_getElem]
  constructor
  · rintro ⟨hk, i, hi, rfl, hlt⟩
    refine ⟨hk, fun j hj => ?_⟩
    obtain ⟨hjl, hje⟩ := hmem j
    have hi16 : i < 16 := by simpa using hi
    have hji : j.toNat < i := by
      have hj' : j.toNat < (BitVec.ofNat 4 i).toNat := by simpa [BitVec.lt_def] using hj
      rw [BitVec.toNat_ofNat] at hj'
      omega
    have := hlt j.toNat hji
    rw [hje] at this
    simpa using this
  · rintro ⟨hk, hlt⟩
    obtain ⟨hkl, hke⟩ := hmem k
    refine ⟨hk, k.toNat, hkl, hke, fun j hj => ?_⟩
    have hj16 : j < 16 := by have := k.isLt; omega
    have : keyAt keys (BitVec.ofNat 4 j) = false := hlt _ (by
      rw [BitVec.lt_def, BitVec.toNat_ofNat]
      omega)
    simp [this]

theorem lowestPressed_eq_none (keys : Keys) : lowestPressed keys = none ↔ ∀ k : BitVec 4, keyAt keys k = false := by
  unfold lowestPressed
  rw [List.find?_eq_none]
  constructor
  · intro h k
    have := h k (by
      rw [List.mem_map]
      exact ⟨k.toNat, List.mem_range.mpr k.isLt, by simp⟩)
    simpa using this
  · intro h k _
    simp [h k]

end Sys2Proof.Machine
end

