-- ==== Sys2Proof/Laws/Blocks.lean ====
section
/-! SUPPORT. The bulk transfers of FX55 and FX65 and the image copy of `load`, each said once. -/

namespace Sys2Proof.Machine

/-! ## FX55 -/

theorem State.storeBlock_succ (s : State) (n : Nat) : s.storeBlock (n + 1) = (s.storeBlock n).storeOne n := by
  simp [State.storeBlock, List.range_succ]

theorem State.storeBlock_eq (s : State) (n : Nat) :
    s.storeBlock n = { s with mem := (s.storeBlock n).mem, index := (s.storeBlock n).index } := by
  induction n with
  | zero => rfl
  | succ n ih =>
    rw [State.storeBlock_succ]
    generalize s.storeBlock n = t at ih ⊢
    rw [ih]
    rfl

theorem State.storeBlock_reg (s : State) (n : Nat) (r : Reg) : (s.storeBlock n).reg r = s.reg r := by
  rw [State.storeBlock_eq]; rfl

theorem State.storeBlock_index (s : State) (n : Nat) (hn : 0 < n) :
    (s.storeBlock n).index.toNat = (s.index.toNat + n) % 4096 := by
  induction n with
  | zero => omega
  | succ n ih =>
    rw [State.storeBlock_succ]
    rcases Nat.eq_zero_or_pos n with rfl | hp
    · simp [State.storeBlock, State.storeOne]
    · simp only [State.storeOne, State.setIndex_index, add12_toNat, ih hp, BitVec.toNat_ofNat]
      omega

/-- `I` before a transfer, mod 4096. -/
theorem State.storeBlock_index_mod (s : State) (n : Nat) :
    (s.storeBlock n).index.toNat % 4096 = (s.index.toNat + n) % 4096 := by
  rcases Nat.eq_zero_or_pos n with rfl | hp
  · rfl
  · rw [s.storeBlock_index n hp, Nat.mod_mod]

/-- What memory reads after the first `n` transfers, at most 16: the stored register inside the block, and the byte before
outside it. -/
theorem State.storeBlock_readByte (s : State) (n : Nat) (hn : n ≤ 16) (a : Word) :
    (∀ k : Nat, k < n → a.toNat % 4096 = (s.index.toNat + k) % 4096 → (s.storeBlock n).readByte a = s.reg (BitVec.ofNat 4 k))
    ∧ ((∀ k : Nat, k < n → a.toNat % 4096 ≠ (s.index.toNat + k) % 4096) → (s.storeBlock n).readByte a = s.readByte a) := by
  induction n with
  | zero => exact ⟨fun k hk => absurd hk (by omega), fun _ => rfl⟩
  | succ n ih =>
    obtain ⟨ih1, ih2⟩ := ih (by omega)
    have hread : (s.storeBlock (n + 1)).readByte a
        = if a.toNat % 4096 = (s.index.toNat + n) % 4096 then s.reg (BitVec.ofNat 4 n) else (s.storeBlock n).readByte a := by
      rw [State.storeBlock_succ]
      simp only [State.storeOne, State.setIndex_readByte, State.readByte_writeByte, State.storeBlock_index_mod,
        State.storeBlock_reg]
    refine ⟨fun k hk ha => ?_, fun h => ?_⟩
    · rw [hread]
      rcases Nat.lt_succ_iff_lt_or_eq.mp hk with hk | rfl
      · rw [if_neg (by omega), ih1 k hk ha]
      · rw [if_pos ha]
    · rw [hread, if_neg (h n (by omega)), ih2 fun k hk => h k (by omega)]

theorem State.storeBlock_wf (s : State) (n : Nat) (h : Memory.wf s.cfg.layout s.mem) :
    Memory.wf s.cfg.layout (s.storeBlock n).mem := by
  induction n with
  | zero => exact h
  | succ n ih =>
    have hcfg : (s.storeBlock n).cfg = s.cfg := by rw [State.storeBlock_eq]
    rw [State.storeBlock_succ, ← hcfg]
    rw [← hcfg] at ih
    exact State.writeByte_wf _ _ _ ih

/-! ## FX65 -/

theorem State.loadBlock_succ (s : State) (n : Nat) : s.loadBlock (n + 1) = (s.loadBlock n).loadOne n := by
  simp [State.loadBlock, List.range_succ]

theorem State.loadBlock_eq (s : State) (n : Nat) :
    s.loadBlock n = { s with v := (s.loadBlock n).v, index := (s.loadBlock n).index } := by
  induction n with
  | zero => rfl
  | succ n ih =>
    rw [State.loadBlock_succ]
    generalize s.loadBlock n = t at ih ⊢
    rw [ih]
    rfl

theorem State.loadBlock_readByte (s : State) (n : Nat) (a : Word) : (s.loadBlock n).readByte a = s.readByte a := by
  rw [State.loadBlock_eq]; rfl

theorem State.loadBlock_index (s : State) (n : Nat) (hn : 0 < n) :
    (s.loadBlock n).index.toNat = (s.index.toNat + n) % 4096 := by
  induction n with
  | zero => omega
  | succ n ih =>
    rw [State.loadBlock_succ]
    rcases Nat.eq_zero_or_pos n with rfl | hp
    · simp [State.loadBlock, State.loadOne]
    · simp only [State.loadOne, State.setIndex_index, add12_toNat, ih hp, BitVec.toNat_ofNat]
      omega

theorem State.loadBlock_index_mod (s : State) (n : Nat) :
    (s.loadBlock n).index.toNat % 4096 = (s.index.toNat + n) % 4096 := by
  rcases Nat.eq_zero_or_pos n with rfl | hp
  · rfl
  · rw [s.loadBlock_index n hp, Nat.mod_mod]

/-- What a register holds after the first `n` transfers, at most 16: its byte inside the block, itself above it. -/
theorem State.loadBlock_reg (s : State) (n : Nat) (hn : n ≤ 16) (r : Reg) :
    (s.loadBlock n).reg r
      = if r.toNat < n then s.readByte (BitVec.ofNat 16 ((s.index.toNat + r.toNat) % 4096)) else s.reg r := by
  induction n with
  | zero => rfl
  | succ n ih =>
    rw [State.loadBlock_succ]
    simp only [State.loadOne, State.setIndex_reg, State.reg_setReg, State.loadBlock_readByte, ih (by omega)]
    have hr : r = BitVec.ofNat 4 n ↔ r.toNat = n := by
      rw [← BitVec.toNat_inj, BitVec.toNat_ofNat]
      omega
    by_cases h : r.toNat = n
    · rw [if_pos (hr.mpr h), if_pos (by omega), h]
      apply State.readByte_congr
      rw [State.loadBlock_index_mod, BitVec.toNat_ofNat]
      omega
    · rw [if_neg (fun e => h (hr.mp e))]
      by_cases hlt : r.toNat < n
      · rw [if_pos hlt, if_pos (by omega)]
      · rw [if_neg hlt, if_neg (by omega)]

/-! ## The image copy -/

theorem State.copyBytes_eq (s : State) (a : Word) (image : List Byte) :
    s.copyBytes a image = { s with mem := (s.copyBytes a image).mem } := by
  induction image generalizing s a with
  | nil => rfl
  | cons b rest ih =>
    unfold State.copyBytes
    rw [ih]
    rfl

theorem State.copyBytes_wf (s : State) (a : Word) (image : List Byte) (h : Memory.wf s.cfg.layout s.mem) :
    Memory.wf s.cfg.layout (s.copyBytes a image).mem := by
  induction image generalizing s a with
  | nil => exact h
  | cons b rest ih => exact ih _ _ (State.writeByte_wf s a b h)

/-- Bytes below the copied window, and those past its end, read as before. -/
theorem State.copyBytes_outside (s : State) (a b : Word) (image : List Byte) (hfit : a.toNat + image.length ≤ 4096)
    (hb : b.toNat < 4096) (h : b.toNat < a.toNat ∨ a.toNat + image.length ≤ b.toNat) :
    (s.copyBytes a image).readByte b = s.readByte b := by
  induction image generalizing s a with
  | nil => rfl
  | cons c rest ih =>
    simp only [List.length_cons] at hfit h
    unfold State.copyBytes
    rcases Nat.eq_zero_or_pos rest.length with hr | hr
    · rw [List.length_eq_zero_iff.mp hr]
      simp only [State.copyBytes, State.readByte_writeByte]
      rw [if_neg (by omega)]
    · have ha : (add12 a 1#16).toNat = a.toNat + 1 := by
        rw [add12_toNat]
        simp only [BitVec.toNat_ofNat]
        omega
      rw [ih _ _ (by omega) (by omega), State.readByte_writeByte, if_neg (by omega)]

/-- The copied window reads as the image. -/
theorem State.copyBytes_inside (s : State) (a : Word) (image : List Byte) (hfit : a.toNat + image.length ≤ 4096)
    (k : Nat) (hk : k < image.length) :
    (s.copyBytes a image).readByte (BitVec.ofNat 16 (a.toNat + k)) = image[k] := by
  induction image generalizing s a k with
  | nil => simp at hk
  | cons c rest ih =>
    simp only [List.length_cons] at hfit hk
    unfold State.copyBytes
    rcases Nat.eq_zero_or_pos rest.length with hr | hr
    · have hk0 : k = 0 := by omega
      subst hk0
      obtain rfl := List.length_eq_zero_iff.mp hr
      simp [State.copyBytes, State.readByte_writeByte]
    · have ha : (add12 a 1#16).toNat = a.toNat + 1 := by
        rw [add12_toNat]
        simp only [BitVec.toNat_ofNat]
        omega
      cases k with
      | zero =>
        rw [State.copyBytes_outside _ _ _ _ (by omega) (by simp only [BitVec.toNat_ofNat]; omega)
          (by simp only [BitVec.toNat_ofNat]; omega), State.readByte_writeByte]
        simp
      | succ k =>
        have := ih (s.writeByte a c) (add12 a 1#16) (by omega) k (by omega)
        rw [ha] at this
        rw [List.getElem_cons_succ, ← this]
        congr 2
        omega

end Sys2Proof.Machine
end

