-- ==== Sys2Proof/Machine/Coordinator.lean ====
section
/-! DEFINITION. The reference coordinator of spec/60_exceptions.md R240, as a separate agent. The spec defines it for its
test vectors only (decision D22); the engine itself assumes nothing about a coordinator's answers. -/

namespace Sys2Proof.Machine

/-- `RefCoordinator(P)`: the player count and the arrivals counted so far. -/
structure RefCoordinator where
  players : Nat
  arrived : Nat
  deriving DecidableEq, Repr

/-- The coordinator at its start: `state arrived : Nat := 0`, with `P >= 1` players (R240). -/
def RefCoordinator.start (players : Nat) (_ : 1 ≤ players) : RefCoordinator := ⟨players, 0⟩

/-- A coordinator of R240 has at least one player; every operation keeps the count (`RefCoordinator.after_wf`). -/
abbrev RefCoordinator.wf (c : RefCoordinator) : Prop := 1 ≤ c.players

/-- `notifyArrival()`, and the host's `hostArrive()` (R240). -/
def RefCoordinator.arrive (c : RefCoordinator) : RefCoordinator := { c with arrived := c.arrived + 1 }

/-- The answer of `isBarrierComplete()` (R240). -/
def RefCoordinator.complete (c : RefCoordinator) : Bool := c.players ≤ c.arrived

/-- The coordinator after `isBarrierComplete()` (R240): a true answer starts the next count. -/
def RefCoordinator.polled (c : RefCoordinator) : RefCoordinator := if c.complete then { c with arrived := 0 } else c

/-- Does a cycle ask the coordinator (40_cycle.md R101, R102)? -/
def State.pollsCoordinator (s : State) : Bool := !s.halted && s.syncBarrier && s.cfg.coordPresent

/-- The coordinator's answers as the inputs of the next cycle. -/
def RefCoordinator.answer (c : RefCoordinator) (s : State) : State :=
  { s with inputs := { s.inputs with barrierComplete := c.complete, playerCount := c.players } }

/-- The coordinator after a cycle that took it from `s` to `t`: polled at the gate, then notified of each new arrival. -/
def RefCoordinator.after (c : RefCoordinator) (s t : State) : RefCoordinator :=
  let polled := if s.pollsCoordinator then c.polled else c
  if Event.notifyArrival ∈ t.events.drop s.events.length then polled.arrive else polled

/-- One cycle of the engine with its reference coordinator. -/
def cycleWith (c : RefCoordinator) (s : State) : Host.Outcome (RefCoordinator × State) Fault Refusal :=
  match cycle (c.answer s) with
  | .next t => .next (c.after s t, t)
  | .fault r => .fault r
  | .refused r => .refused r

end Sys2Proof.Machine
end

