-- ==== Sys2Proof/Laws/Cycle.lean ====
section
/-! SUPPORT. What the cycle, its gates and the host's other operations can do, each said once. -/

namespace Sys2Proof.Machine

/-! ## Every instruction completes -/

theorem exec_completes (i : Instr) (s : State) : ∃ t, exec i s = .next t := by
  cases i <;>
    first
    | exact ⟨_, rfl⟩
    | (simp only [exec, execRet, execCall, execLdSTVx, execSync]; split <;> exact ⟨_, rfl⟩)

theorem execDecoded_completes (d : Decoded) (s : State) : ∃ t, execDecoded d s = .next t := by
  cases d with
  | instr i => exact exec_completes i s
  | nop why => exact ⟨_, rfl⟩

/-! ## A step -/

theorem step_of_nil {s : State} (h : s.script = []) : step s = cycle s := by simp only [step, h]

theorem step_of_cons {s : State} {op : HostOp} {rest : List HostOp} (h : s.script = op :: rest) :
    step s = perform op { s with script := rest } := by simp only [step, h]

theorem run_succ_of_next {s t : State} (h : step s = .next t) (k : Nat) :
    Sys2Proof.core.run (k + 1) s = Sys2Proof.core.run k t := by
  have h' : Sys2Proof.core.step s = .next t := h
  simp only [Host.Core.run, h']

/-! ## The gates of a cycle -/

theorem barrierBlocks_eq_false (s : State) : s.barrierBlocks = false ↔ BarrierOpen s := by
  unfold State.barrierBlocks BarrierOpen
  cases s.syncBarrier <;> cases s.cfg.coordPresent <;> cases s.inputs.barrierComplete <;> simp

theorem playerOutOfRange_eq_false (s : State) : s.playerOutOfRange = false ↔ PlayerInRange s := by
  unfold State.playerOutOfRange State.sourcePlayer PlayerInRange
  by_cases hc : s.cfg.coordPresent = true
  · by_cases hp : s.activePlayer = 0#4
    · simp [hc, hp]
    · simp [hc, hp]
  · simp [hc]

theorem cycle_of_halted {s : State} (h : s.halted = true) : cycle s = .next { s with status := .halted } := by
  rw [cycle, if_pos h]; rfl

theorem cycle_of_blocked {s : State} (h : s.halted = false) (hb : s.barrierBlocks = true) :
    cycle s = .next { s with status := .blockedBarrier } := by
  rw [cycle, if_neg (by rw [h]; decide), if_pos hb]; rfl

theorem cycle_of_outOfRange {s : State} (h : s.halted = false) (hb : s.barrierBlocks = false)
    (hp : s.playerOutOfRange = true) : cycle s = .fault (.invalidPlayerId s.sourcePlayer) := by
  rw [cycle, if_neg (by rw [h]; decide), if_neg (by rw [hb]; decide), if_pos hp]

theorem cycle_of_waiting {s : State} (h : s.halted = false) (hb : s.barrierBlocks = false)
    (hp : s.playerOutOfRange = false) (hw : s.waitingForKey = true) :
    cycle s = .next (s.openGates.keyWaitStep.report .blockedKey) := by
  rw [cycle, if_neg (by rw [h]; decide), if_neg (by rw [hb]; decide), if_neg (by rw [hp]; decide), if_pos hw]

theorem cycle_of_running {s : State} (h : s.halted = false) (hb : s.barrierBlocks = false)
    (hp : s.playerOutOfRange = false) (hw : s.waitingForKey = false) : cycle s = fetchExecute s.openGates := by
  rw [cycle, if_neg (by rw [h]; decide), if_neg (by rw [hb]; decide), if_neg (by rw [hp]; decide),
    if_neg (by rw [hw]; decide)]

/-- All a cycle can do: the four ways it ends. -/
theorem cycle_cases (s : State) :
    (s.halted = true ∧ cycle s = .next { s with status := .halted })
    ∨ (s.halted = false ∧ s.barrierBlocks = true ∧ cycle s = .next { s with status := .blockedBarrier })
    ∨ (s.halted = false ∧ s.barrierBlocks = false ∧ s.playerOutOfRange = true
        ∧ cycle s = .fault (.invalidPlayerId s.sourcePlayer))
    ∨ (s.halted = false ∧ s.barrierBlocks = false ∧ s.playerOutOfRange = false ∧ s.waitingForKey = true
        ∧ cycle s = .next (s.openGates.keyWaitStep.report .blockedKey))
    ∨ (s.halted = false ∧ s.barrierBlocks = false ∧ s.playerOutOfRange = false ∧ s.waitingForKey = false
        ∧ cycle s = fetchExecute s.openGates) := by
  by_cases h : s.halted = true
  · exact .inl ⟨h, cycle_of_halted h⟩
  have h' := Bool.eq_false_of_not_eq_true h
  by_cases hb : s.barrierBlocks = true
  · exact .inr (.inl ⟨h', hb, cycle_of_blocked h' hb⟩)
  have hb' := Bool.eq_false_of_not_eq_true hb
  by_cases hp : s.playerOutOfRange = true
  · exact .inr (.inr (.inl ⟨h', hb', hp, cycle_of_outOfRange h' hb' hp⟩))
  have hp' := Bool.eq_false_of_not_eq_true hp
  by_cases hw : s.waitingForKey = true
  · exact .inr (.inr (.inr (.inl ⟨h', hb', hp', hw, cycle_of_waiting h' hb' hp' hw⟩)))
  · have hw' := Bool.eq_false_of_not_eq_true hw
    exact .inr (.inr (.inr (.inr ⟨h', hb', hp', hw', cycle_of_running h' hb' hp' hw'⟩)))

/-- The fetch half of a cycle runs the decoded instruction on the post-fetch state. -/
theorem fetchExecute_of_instr {s u : State} {i : Instr} (hd : decode s.cfg s.fetchOpcode = .instr i)
    (hu : exec i s.advancePc = .next u) : fetchExecute s = .next { u with status := u.executedStatus } := by
  simp only [fetchExecute, hd, execDecoded, hu, finishExecuted, State.report]

/-- A no-op word only advances `pc`. -/
theorem fetchExecute_of_nop {s : State} {why : NopClass} (hd : decode s.cfg s.fetchOpcode = .nop why) :
    fetchExecute s = .next { s.advancePc with status := s.executedStatus } := by
  simp only [fetchExecute, hd, execDecoded, execNop, finishExecuted, State.report]; rfl

/-- The fetch half of a cycle never stops, and what it reaches is what the decoded word's meaning gives. -/
theorem fetchExecute_completes (s : State) :
    ∃ u, execDecoded (decode s.cfg s.fetchOpcode) s.advancePc = .next u
      ∧ fetchExecute s = .next { u with status := u.executedStatus } := by
  obtain ⟨u, hu⟩ := execDecoded_completes (decode s.cfg s.fetchOpcode) s.advancePc
  exact ⟨u, hu, by simp only [fetchExecute, hu, finishExecuted, State.report]⟩

/-! ## The key wait -/

/-- A key-wait step writes at most one register and the wait's own fields. -/
theorem State.keyWaitStep_eq (s : State) :
    s.keyWaitStep = { s with
      v := s.keyWaitStep.v, waitingForKey := s.keyWaitStep.waitingForKey, waitingPhase := s.keyWaitStep.waitingPhase,
      waitingTrackedKey := s.keyWaitStep.waitingTrackedKey } := by
  unfold State.keyWaitStep State.keyPress State.keyRelease
  split
  · split <;> rfl
  · split <;> rfl

/-! ## The other host operations -/

@[simp] theorem countDown_toNat (b : Byte) : (countDown b).toNat = b.toNat - 1 := by revert b; decide

/-- A tick writes the two timers and at most one event. -/
theorem tick_eq (s : State) :
    tick s = { s with
      delayTimer := (tick s).delayTimer, soundTimer := (tick s).soundTimer, events := (tick s).events } := by
  unfold tick
  split
  · rfl
  · dsimp only; split <;> rfl

/-- A reset keeps the parameters and the ports, and gives every other field but the generator its reset value. -/
theorem resetOp_eq (seed : Option Nat) (s : State) :
    resetOp seed s = { State.reset with
      pc := BitVec.ofNat 16 s.cfg.layout.programOrigin, rng := (resetOp seed s).rng, cfg := s.cfg,
      inputs := s.inputs, script := s.script, events := s.events, seedDraws := (resetOp seed s).seedDraws } := by
  cases seed <;> rfl

theorem loadOp_of_fits {s : State} {image : List Byte} (h : image.length ≤ 4096 - s.cfg.layout.programOrigin)
    (seed : Option Nat) :
    loadOp image seed s = (resetOp seed s).copyBytes (BitVec.ofNat 16 s.cfg.layout.programOrigin) image :=
  if_pos (decide_eq_true h)

theorem loadOp_of_too_long {s : State} {image : List Byte} (h : 4096 - s.cfg.layout.programOrigin < image.length)
    (seed : Option Nat) : loadOp image seed s = { s with status := .loadRejected image.length } :=
  if_neg fun hc => absurd (of_decide_eq_true hc) (Nat.not_le.mpr h)

/-! ## The reference coordinator -/

theorem RefCoordinator.start_wf {p : Nat} (h : 1 ≤ p) : (RefCoordinator.start p h).wf := h

/-- A cycle keeps the coordinator's player count. -/
theorem RefCoordinator.after_wf {c : RefCoordinator} (h : c.wf) (s t : State) : (c.after s t).wf := by
  have hp : c.polled.wf := by unfold RefCoordinator.polled; split <;> exact h
  unfold RefCoordinator.after
  dsimp only
  split <;> split <;> first | exact hp | exact h

/-! ## Placing an opcode -/

/-- A placed opcode is the one fetched next. -/
theorem State.placeOpcode_fetch (s : State) (op : Word) : (s.placeOpcode op).fetchOpcode = op := by
  have hpc : (s.placeOpcode op).pc = s.pc := rfl
  have hne : (add12 s.pc 1#16).toNat % 4096 ≠ s.pc.toNat % 4096 := by
    rw [add12_toNat]; simp; omega
  unfold State.fetchOpcode
  rw [hpc]
  unfold State.placeOpcode
  rw [State.readByte_writeByte, if_neg (Ne.symm hne), State.readByte_writeByte, if_pos rfl, State.readByte_writeByte,
    if_pos rfl]
  unfold opcodeOfBytes opcodeHi opcodeLo
  apply BitVec.eq_of_getLsbD_eq
  intro k hk
  rw [BitVec.getLsbD_append, BitVec.getLsbD_extractLsb', BitVec.getLsbD_extractLsb']
  by_cases h8 : k < 8
  · simp [h8]
  · have : k - 8 < 8 := by omega
    simp [h8, this, show 8 + (k - 8) = k by omega]

end Sys2Proof.Machine
end

