-- ==== Sys2Proof/Laws/Draw.lean ====
section
/-! SUPPORT. What a draw does to each pixel, said once: a pixel changes exactly where the sprite has a set bit. -/

namespace Sys2Proof.Machine

theorem pixelIndex_inj {c r c' r' : Nat} (hc : c < 64) (hc' : c' < 64) (h : pixelIndex c r = pixelIndex c' r') :
    c = c' ∧ r = r' := by
  unfold pixelIndex at h
  omega

theorem pixelIndex_lt {c r : Nat} (hc : c < 64) (hr : r < 32) : pixelIndex c r < displaySize := by
  unfold pixelIndex displaySize
  omega

theorem DrawState.toggle_pixel (d : DrawState) {col row : Nat} (hcol : col < 64) (c r : Nat) (hc : c < 64) :
    pixelOf (d.toggle col row).display c r
      = if c = col ∧ r = row then pixelOf d.display c r ^^^ 1#8 else pixelOf d.display c r := by
  unfold DrawState.toggle pixelOf
  rw [cellsRead_write]
  by_cases h : c = col ∧ r = row
  · rw [if_pos h, if_pos (by rw [h.1, h.2]), h.1, h.2]
  · rw [if_neg h, if_neg fun e => h (pixelIndex_inj hc hcol e)]

/-- What one row of a draw has done when the bits before `n` have been drawn: the pixels under a set bit are toggled, and a
collision is one seen before or a toggled pixel that was on. -/
theorem DrawState.drawBits_spec (d : DrawState) (x0 row : Nat) (hrow : row < 32) (b : Byte) (n : Nat) :
    (∀ c r : Nat, c < 64 →
      pixelOf ((List.range n).foldl (fun d c => d.drawBit x0 row b c) d).display c r
        = if r = row ∧ x0 ≤ c ∧ c < x0 + n ∧ b.getLsbD (7 - (c - x0)) = true then pixelOf d.display c r ^^^ 1#8
          else pixelOf d.display c r)
    ∧ (((List.range n).foldl (fun d c => d.drawBit x0 row b c) d).collision = true ↔
        d.collision = true ∨ ∃ c : Nat, c < 64 ∧ x0 ≤ c ∧ c < x0 + n ∧ b.getLsbD (7 - (c - x0)) = true
          ∧ pixelOf d.display c row = 1#8) := by
  induction n with
  | zero =>
    refine ⟨fun c r _ => ?_, ?_⟩
    · rw [if_neg (by omega)]; rfl
    · simp only [List.range_zero, List.foldl_nil, Nat.add_zero, iff_self_or]
      rintro ⟨c, -, h1, h2, -⟩
      omega
  | succ n ih =>
    obtain ⟨ihp, ihc⟩ := ih
    rw [List.range_succ, List.foldl_append, List.foldl_cons, List.foldl_nil]
    generalize (List.range n).foldl (fun d c => d.drawBit x0 row b c) d = e at ihp ihc ⊢
    by_cases hclip : 63 < x0 + n
    · have he : e.drawBit x0 row b n = e := by unfold DrawState.drawBit; rw [if_pos hclip]
      rw [he]
      refine ⟨fun c r hc => ?_, ?_⟩
      · rw [ihp c r hc]
        exact if_congr (by constructor <;> rintro ⟨h1, h2, h3, h4⟩ <;> exact ⟨h1, h2, by omega, h4⟩) rfl rfl
      · rw [ihc]
        refine or_congr_right (exists_congr fun c => ?_)
        constructor <;> rintro ⟨h0, h1, h2, h3⟩ <;> exact ⟨h0, h1, by omega, h3⟩
    · by_cases hbit : b.getLsbD (7 - n) = true
      · have he : e.drawBit x0 row b n = e.toggle (x0 + n) row := by
          unfold DrawState.drawBit; rw [if_neg hclip, if_pos hbit]
        rw [he]
        have hbefore : pixelOf e.display (x0 + n) row = pixelOf d.display (x0 + n) row := by
          rw [ihp _ _ (by omega), if_neg (by omega)]
        refine ⟨fun c r hc => ?_, ?_⟩
        · rw [DrawState.toggle_pixel e (by omega) c r hc]
          by_cases hhere : c = x0 + n ∧ r = row
          · obtain ⟨rfl, rfl⟩ := hhere
            rw [if_pos ⟨rfl, rfl⟩, hbefore, if_pos ⟨rfl, by omega, by omega, by
              rwa [Nat.add_sub_cancel_left]⟩]
          · rw [if_neg hhere, ihp c r hc]
            exact if_congr (by
              constructor <;> rintro ⟨h1, h2, h3, h4⟩ <;> exact ⟨h1, h2, by omega, h4⟩) rfl rfl
        · have hcol : (e.toggle (x0 + n) row).collision = (e.collision || pixelOf e.display (x0 + n) row == 1#8) := rfl
          rw [hcol, Bool.or_eq_true, ihc, hbefore, beq_iff_eq]
          constructor
          · rintro ((h | ⟨c, h0, h1, h2, h3⟩) | h)
            · exact .inl h
            · exact .inr ⟨c, h0, h1, by omega, h3⟩
            · exact .inr ⟨x0 + n, by omega, by omega, by omega, by rwa [Nat.add_sub_cancel_left], h⟩
          · rintro (h | ⟨c, h0, h1, h2, h3, h4⟩)
            · exact .inl (.inl h)
            · by_cases hc : c = x0 + n
              · exact .inr (hc ▸ h4)
              · exact .inl (.inr ⟨c, h0, h1, by omega, h3, h4⟩)
      · have he : e.drawBit x0 row b n = e := by
          unfold DrawState.drawBit; rw [if_neg hclip, if_neg hbit]
        rw [he]
        have hout : ∀ c : Nat, x0 ≤ c → c < x0 + (n + 1) → b.getLsbD (7 - (c - x0)) = true → c < x0 + n := by
          intro c h1 h2 h3
          by_contra hcc
          have : c = x0 + n := by omega
          rw [this, Nat.add_sub_cancel_left] at h3
          exact hbit h3
        refine ⟨fun c r hc => ?_, ?_⟩
        · rw [ihp c r hc]
          exact if_congr (by
            constructor
            · rintro ⟨h1, h2, h3, h4⟩; exact ⟨h1, h2, by omega, h4⟩
            · rintro ⟨h1, h2, h3, h4⟩; exact ⟨h1, h2, hout c h2 h3 h4, h4⟩) rfl rfl
        · rw [ihc]
          refine or_congr_right (exists_congr fun c => ?_)
          constructor
          · rintro ⟨h0, h1, h2, h3⟩; exact ⟨h0, h1, by omega, h3⟩
          · rintro ⟨h0, h1, h2, h3⟩; exact ⟨h0, h1, hout c h1 h2 h3.1, h3⟩

/-- The sprite's set bit over a pixel, for the rows a draw has done. -/
def spriteCovers (sprite : Nat → Byte) (x0 y0 n col row : Nat) : Prop :=
  y0 ≤ row ∧ row < y0 + n ∧ x0 ≤ col ∧ col < x0 + 8 ∧ (sprite (row - y0)).getLsbD (7 - (col - x0)) = true

theorem drawSprite_succ (display : List Host.Cell) (x0 y0 : Nat) (sprite : Nat → Byte) (n : Nat) :
    drawSprite display x0 y0 sprite (n + 1) = (drawSprite display x0 y0 sprite n).drawRow x0 (y0 + n) (sprite n) := by
  simp [drawSprite, List.range_succ]

/-- A draw toggles exactly the in-bounds pixels under the sprite's set bits, and reports a collision exactly when one of
them was on. -/
theorem drawSprite_spec (display : List Host.Cell) (x0 y0 : Nat) (sprite : Nat → Byte) (n : Nat) :
    (∀ col row : Nat, col < 64 → row < 32 →
      (spriteCovers sprite x0 y0 n col row →
        pixelOf (drawSprite display x0 y0 sprite n).display col row = pixelOf display col row ^^^ 1#8)
      ∧ (¬ spriteCovers sprite x0 y0 n col row →
        pixelOf (drawSprite display x0 y0 sprite n).display col row = pixelOf display col row))
    ∧ ((drawSprite display x0 y0 sprite n).collision = true ↔
        ∃ col row : Nat, col < 64 ∧ row < 32 ∧ spriteCovers sprite x0 y0 n col row ∧ pixelOf display col row = 1#8) := by
  induction n with
  | zero =>
    refine ⟨fun col row _ _ => ⟨?_, fun _ => rfl⟩, ?_⟩
    · rintro ⟨h1, h2, -⟩
      omega
    · simp only [drawSprite, List.range_zero, List.foldl_nil, Bool.false_eq_true, false_iff]
      rintro ⟨col, row, -, -, ⟨h1, h2, -⟩, -⟩
      omega
  | succ n ih =>
    obtain ⟨ihp, ihc⟩ := ih
    rw [drawSprite_succ]
    generalize drawSprite display x0 y0 sprite n = e at ihp ihc ⊢
    -- a pixel of the new row is not covered by the rows above it
    have hnew : ∀ col : Nat, ¬ spriteCovers sprite x0 y0 n col (y0 + n) := by
      rintro col ⟨-, h, -⟩
      omega
    have hother : ∀ col row : Nat, row ≠ y0 + n →
        (spriteCovers sprite x0 y0 (n + 1) col row ↔ spriteCovers sprite x0 y0 n col row) := by
      intro col row hr
      constructor <;> rintro ⟨h1, h2, h3⟩ <;> exact ⟨h1, by omega, h3⟩
    by_cases hclip : 31 < y0 + n
    · have he : e.drawRow x0 (y0 + n) (sprite n) = e := by unfold DrawState.drawRow; rw [if_pos hclip]
      rw [he]
      refine ⟨fun col row hc hr => ?_, ?_⟩
      · rw [hother col row (by omega)]
        exact ihp col row hc hr
      · rw [ihc]
        refine exists_congr fun col => exists_congr fun row => ?_
        constructor
        · rintro ⟨h1, h2, h3, h4⟩; exact ⟨h1, h2, (hother col row (by omega)).mpr h3, h4⟩
        · rintro ⟨h1, h2, h3, h4⟩; exact ⟨h1, h2, (hother col row (by omega)).mp h3, h4⟩
    · have he : e.drawRow x0 (y0 + n) (sprite n)
          = (List.range 8).foldl (fun d c => d.drawBit x0 (y0 + n) (sprite n) c) e := by
        unfold DrawState.drawRow; rw [if_neg hclip]
      rw [he]
      obtain ⟨hp, hcoll⟩ := e.drawBits_spec x0 (y0 + n) (by omega) (sprite n) 8
      have hrow : ∀ col : Nat, spriteCovers sprite x0 y0 (n + 1) col (y0 + n)
          ↔ x0 ≤ col ∧ col < x0 + 8 ∧ (sprite n).getLsbD (7 - (col - x0)) = true := by
        intro col
        unfold spriteCovers
        rw [Nat.add_sub_cancel_left]
        exact ⟨fun h => h.2.2, fun h => ⟨by omega, by omega, h⟩⟩
      refine ⟨fun col row hc hr => ?_, ?_⟩
      · rw [hp col row hc]
        by_cases hrr : row = y0 + n
        · subst hrr
          rw [hrow col, (ihp col _ hc hr).2 (hnew col)]
          exact ⟨fun h => if_pos ⟨rfl, h⟩, fun h => if_neg fun h' => h h'.2⟩
        · rw [hother col row hrr, if_neg fun h => hrr h.1]
          exact ihp col row hc hr
      · rw [hcoll, ihc]
        constructor
        · rintro (⟨col, row, h1, h2, h3, h4⟩ | ⟨col, h1, h2, h3, h4, h5⟩)
          · have : row ≠ y0 + n := fun e => hnew col (e ▸ h3)
            exact ⟨col, row, h1, h2, (hother col row this).mpr h3, h4⟩
          · refine ⟨col, y0 + n, h1, by omega, (hrow col).mpr ⟨h2, h3, h4⟩, ?_⟩
            rwa [(ihp col _ h1 (by omega)).2 (hnew col)] at h5
        · rintro ⟨col, row, h1, h2, h3, h4⟩
          by_cases hrr : row = y0 + n
          · subst hrr
            obtain ⟨h5, h6, h7⟩ := (hrow col).mp h3
            refine .inr ⟨col, h1, h5, h6, h7, ?_⟩
            rwa [(ihp col _ h1 h2).2 (hnew col)]
          · exact .inl ⟨col, row, h1, h2, (hother col row hrr).mp h3, h4⟩

/-- A draw keeps the canonical form of the display. -/
theorem drawSprite_wf {display : List Host.Cell} (h : Display.wf display) (x0 y0 : Nat) (sprite : Nat → Byte) (n : Nat) :
    Display.wf (drawSprite display x0 y0 sprite n).display := by
  have bit : ∀ (d : DrawState) (row : Nat) (b : Byte) (c : Nat), row < 32 → Display.wf d.display →
      Display.wf (d.drawBit x0 row b c).display := by
    intro d row b c hr hd
    unfold DrawState.drawBit
    split
    · exact hd
    · split
      · exact cellsWrite_canonical hd _ _ (pixelIndex_lt (by omega) hr)
      · exact hd
  have bits : ∀ (l : List Nat) (d : DrawState) (row : Nat) (b : Byte), row < 32 → Display.wf d.display →
      Display.wf (l.foldl (fun d c => d.drawBit x0 row b c) d).display := by
    intro l
    induction l with
    | nil => intro d row b _ hd; exact hd
    | cons c l ih => intro d row b hr hd; exact ih _ row b hr (bit d row b c hr hd)
  induction n with
  | zero => exact h
  | succ n ih =>
    rw [drawSprite_succ]
    unfold DrawState.drawRow
    split
    · exact ih
    · exact bits _ _ _ _ (by omega) ih

end Sys2Proof.Machine
end

