-- ==== Sys2Proof/Laws/Words.lean ====
section
/-! SUPPORT. The fields and masks of the word layouts of 30_encoding.md R80. -/

namespace Sys2Proof

theorem wordNNN_mask (c : BitVec 4) (nnn : Addr) : wordNNN c nnn &&& 0xF000#16 = c ++ 0#12 := by
  have h : (0xF000#16 : Word) = 0xF#4 ++ 0x000#12 := by decide
  rw [h, wordNNN, BitVec.and_append, BitVec.and_zero, show (0xF#4 : BitVec 4) = BitVec.allOnes 4 from rfl,
    BitVec.and_allOnes]

theorem wordXKK_mask (c : BitVec 4) (x : Reg) (kk : Byte) : wordXKK c x kk &&& 0xF000#16 = c ++ 0#12 :=
  wordNNN_mask c (x ++ kk)

theorem wordXKK_mask_kk (c : BitVec 4) (x : Reg) (kk : Byte) : wordXKK c x kk &&& 0xF0FF#16 = c ++ (0#4 ++ kk) := by
  have h : (0xF0FF#16 : Word) = 0xF#4 ++ (0x0#4 ++ 0xFF#8) := by decide
  rw [h, wordXKK, BitVec.and_append, BitVec.and_append, BitVec.and_zero,
    show (0xF#4 : BitVec 4) = BitVec.allOnes 4 from rfl, show (0xFF#8 : BitVec 8) = BitVec.allOnes 8 from rfl,
    BitVec.and_allOnes, BitVec.and_allOnes]

theorem wordXYN_mask (c : BitVec 4) (x y : Reg) (n : BitVec 4) : wordXYN c x y n &&& 0xF000#16 = c ++ 0#12 :=
  wordNNN_mask c (x ++ (y ++ n))

theorem wordXYN_mask_n (c : BitVec 4) (x y : Reg) (n : BitVec 4) :
    wordXYN c x y n &&& 0xF00F#16 = c ++ (0#4 ++ (0#4 ++ n)) := by
  have h : (0xF00F#16 : Word) = 0xF#4 ++ (0x0#4 ++ (0x0#4 ++ 0xF#4)) := by decide
  rw [h, wordXYN, BitVec.and_append, BitVec.and_append, BitVec.and_append, BitVec.and_zero, BitVec.and_zero,
    show (0xF#4 : BitVec 4) = BitVec.allOnes 4 from rfl, BitVec.and_allOnes, BitVec.and_allOnes]

/-! ## The fields of a word in each layout -/

theorem append_hi {w k n : Nat} (a : BitVec w) (b : BitVec k) (h : n = k) : (a ++ b).extractLsb' n w = a := by
  subst h
  ext i hi
  simp [BitVec.getLsbD_append, BitVec.getLsbD_eq_getElem hi]

theorem append_mid {w k : Nat} (a : BitVec w) (b : BitVec k) (s n : Nat) (h : s + n ≤ k) :
    (a ++ b).extractLsb' s n = b.extractLsb' s n := by
  ext i hi
  have : s + i < k := by omega
  simp [BitVec.getLsbD_append, this]

@[simp] theorem fieldC_wordNNN (c : BitVec 4) (nnn : Addr) : fieldC (wordNNN c nnn) = c := append_hi c nnn rfl
@[simp] theorem fieldNNN_wordNNN (c : BitVec 4) (nnn : Addr) : fieldNNN (wordNNN c nnn) = nnn :=
  (append_mid c nnn 0 12 (by decide)).trans BitVec.extractLsb'_eq_self

@[simp] theorem fieldC_wordXKK (c : BitVec 4) (x : Reg) (kk : Byte) : fieldC (wordXKK c x kk) = c := append_hi c _ rfl
@[simp] theorem fieldX_wordXKK (c : BitVec 4) (x : Reg) (kk : Byte) : fieldX (wordXKK c x kk) = x :=
  (append_mid c (x ++ kk) 8 4 (by decide)).trans (append_hi x kk rfl)
@[simp] theorem fieldKK_wordXKK (c : BitVec 4) (x : Reg) (kk : Byte) : fieldKK (wordXKK c x kk) = kk :=
  (append_mid c (x ++ kk) 0 8 (by decide)).trans
    ((append_mid x kk 0 8 (by decide)).trans BitVec.extractLsb'_eq_self)

@[simp] theorem fieldC_wordXYN (c : BitVec 4) (x y : Reg) (n : BitVec 4) : fieldC (wordXYN c x y n) = c := append_hi c _ rfl
@[simp] theorem fieldX_wordXYN (c : BitVec 4) (x y : Reg) (n : BitVec 4) : fieldX (wordXYN c x y n) = x :=
  (append_mid c (x ++ (y ++ n)) 8 4 (by decide)).trans (append_hi x (y ++ n) rfl)
@[simp] theorem fieldY_wordXYN (c : BitVec 4) (x y : Reg) (n : BitVec 4) : fieldY (wordXYN c x y n) = y :=
  (append_mid c (x ++ (y ++ n)) 4 4 (by decide)).trans
    ((append_mid x (y ++ n) 4 4 (by decide)).trans (append_hi y n rfl))
@[simp] theorem fieldN_wordXYN (c : BitVec 4) (x y : Reg) (n : BitVec 4) : fieldN (wordXYN c x y n) = n :=
  (append_mid c (x ++ (y ++ n)) 0 4 (by decide)).trans
    ((append_mid x (y ++ n) 0 4 (by decide)).trans
      ((append_mid y n 0 4 (by decide)).trans BitVec.extractLsb'_eq_self))

/-! ## Overlapping rows -/

/-- Two rows that one word matches agree on the bits both of them test. -/
theorem TableRow.agree_of_both {r q : TableRow} {op : Word} (hr : r.isRowOf op = true) (hq : q.isRowOf op = true) :
    r.value &&& q.mask = q.value &&& r.mask := by
  rw [← beq_iff_eq.mp hr, ← beq_iff_eq.mp hq, BitVec.and_assoc, BitVec.and_assoc, BitVec.and_comm r.mask]

end Sys2Proof
end

