-- ==== Sys2Proof/Laws/PerInstr.lean ====
section
/-! SUPPORT. One lemma per instruction: its encoded word is a word of a row of the table of 30_encoding.md R83, and the row
gives the instruction back. -/

namespace Sys2Proof.Laws.EncodedRow

/-- The instruction's word matches a row of the table, and the row's meaning of it is the instruction. -/
def Statement (i : Instr) : Prop :=
  ∀ l : Layout, ∃ row ∈ opcodeMap l, row.1.isRowOf (encode l i) = true ∧ row.2 (encode l i) = i

/-- A row of group 0, whose mask is the whole word. -/
theorem of_group0 {i : Instr} (h : ∀ l, rowOf (encode l i) 0xFFFF#16 (fun _ => i) ∈ opcodeMapGroup0 l) : Statement i :=
  fun l => ⟨_, List.mem_append_left _ (h l), beq_iff_eq.mpr BitVec.and_allOnes, rfl⟩

/-- The rows of the other groups. -/
abbrev others : List (TableRow × (Word → Instr)) := opcodeMapNNN ++ (opcodeMapXKK ++ (opcodeMapXY ++ opcodeMapX))

/-- A row of the other groups, by its place. -/
theorem of_other {i : Instr} (k : Fin others.length) (h : ∀ l, encode l i &&& (others.get k).1.mask = (others.get k).1.value)
    (hi : ∀ l, (others.get k).2 (encode l i) = i) : Statement i := fun l =>
  ⟨_, List.mem_append_right _ (List.get_mem others k), beq_iff_eq.mpr (h l), hi l⟩

theorem cls : Statement .cls :=
  of_group0 fun l => by simp [opcodeMapGroup0, rowOf, encode]

theorem ret : Statement .ret :=
  of_group0 fun l => by simp [opcodeMapGroup0, rowOf, encode]

theorem sync : Statement .sync :=
  of_group0 fun l => by simp [opcodeMapGroup0, rowOf, encode]

theorem player1 : Statement .player1 :=
  of_group0 fun l => by simp [opcodeMapGroup0, rowOf, encode]

theorem player2 : Statement .player2 :=
  of_group0 fun l => by simp [opcodeMapGroup0, rowOf, encode]

theorem player3 : Statement .player3 :=
  of_group0 fun l => by simp [opcodeMapGroup0, rowOf, encode]

theorem player4 : Statement .player4 :=
  of_group0 fun l => by simp [opcodeMapGroup0, rowOf, encode]

theorem player5 : Statement .player5 :=
  of_group0 fun l => by simp [opcodeMapGroup0, rowOf, encode]

theorem player6 : Statement .player6 :=
  of_group0 fun l => by simp [opcodeMapGroup0, rowOf, encode]

theorem player7 : Statement .player7 :=
  of_group0 fun l => by simp [opcodeMapGroup0, rowOf, encode]

theorem player8 : Statement .player8 :=
  of_group0 fun l => by simp [opcodeMapGroup0, rowOf, encode]

theorem player9 : Statement .player9 :=
  of_group0 fun l => by simp [opcodeMapGroup0, rowOf, encode]

theorem player10 : Statement .player10 :=
  of_group0 fun l => by simp [opcodeMapGroup0, rowOf, encode]

theorem player11 : Statement .player11 :=
  of_group0 fun l => by simp [opcodeMapGroup0, rowOf, encode]

theorem player12 : Statement .player12 :=
  of_group0 fun l => by simp [opcodeMapGroup0, rowOf, encode]

theorem player13 : Statement .player13 :=
  of_group0 fun l => by simp [opcodeMapGroup0, rowOf, encode]

theorem player14 : Statement .player14 :=
  of_group0 fun l => by simp [opcodeMapGroup0, rowOf, encode]

theorem player15 : Statement .player15 :=
  of_group0 fun l => by simp [opcodeMapGroup0, rowOf, encode]

theorem shared : Statement .shared :=
  of_group0 fun l => by simp [opcodeMapGroup0, rowOf, encode]

theorem jp (nnn : Addr) : Statement (.jp nnn) :=
  of_other ⟨0, by decide⟩ (fun _ => wordNNN_mask 0x1#4 nnn)
    fun _ => congrArg Instr.jp (fieldNNN_wordNNN _ _)

theorem call (nnn : Addr) : Statement (.call nnn) :=
  of_other ⟨1, by decide⟩ (fun _ => wordNNN_mask 0x2#4 nnn)
    fun _ => congrArg Instr.call (fieldNNN_wordNNN _ _)

theorem seImm (x : Reg) (kk : Byte) : Statement (.seImm x kk) :=
  of_other ⟨4, by decide⟩ (fun _ => wordXKK_mask 0x3#4 x kk)
    fun _ => congrArg₂ Instr.seImm (fieldX_wordXKK _ _ _) (fieldKK_wordXKK _ _ _)

theorem sneImm (x : Reg) (kk : Byte) : Statement (.sneImm x kk) :=
  of_other ⟨5, by decide⟩ (fun _ => wordXKK_mask 0x4#4 x kk)
    fun _ => congrArg₂ Instr.sneImm (fieldX_wordXKK _ _ _) (fieldKK_wordXKK _ _ _)

theorem seReg (x : Reg) (y : Reg) : Statement (.seReg x y) :=
  of_other ⟨9, by decide⟩ (fun _ => wordXYN_mask_n 0x5#4 x y 0x0#4)
    fun _ => congrArg₂ Instr.seReg (fieldX_wordXYN _ _ _ _) (fieldY_wordXYN _ _ _ _)

theorem ldImm (x : Reg) (kk : Byte) : Statement (.ldImm x kk) :=
  of_other ⟨6, by decide⟩ (fun _ => wordXKK_mask 0x6#4 x kk)
    fun _ => congrArg₂ Instr.ldImm (fieldX_wordXKK _ _ _) (fieldKK_wordXKK _ _ _)

theorem addImm (x : Reg) (kk : Byte) : Statement (.addImm x kk) :=
  of_other ⟨7, by decide⟩ (fun _ => wordXKK_mask 0x7#4 x kk)
    fun _ => congrArg₂ Instr.addImm (fieldX_wordXKK _ _ _) (fieldKK_wordXKK _ _ _)

theorem ldReg (x : Reg) (y : Reg) : Statement (.ldReg x y) :=
  of_other ⟨10, by decide⟩ (fun _ => wordXYN_mask_n 0x8#4 x y 0x0#4)
    fun _ => congrArg₂ Instr.ldReg (fieldX_wordXYN _ _ _ _) (fieldY_wordXYN _ _ _ _)

theorem orReg (x : Reg) (y : Reg) : Statement (.orReg x y) :=
  of_other ⟨11, by decide⟩ (fun _ => wordXYN_mask_n 0x8#4 x y 0x1#4)
    fun _ => congrArg₂ Instr.orReg (fieldX_wordXYN _ _ _ _) (fieldY_wordXYN _ _ _ _)

theorem andReg (x : Reg) (y : Reg) : Statement (.andReg x y) :=
  of_other ⟨12, by decide⟩ (fun _ => wordXYN_mask_n 0x8#4 x y 0x2#4)
    fun _ => congrArg₂ Instr.andReg (fieldX_wordXYN _ _ _ _) (fieldY_wordXYN _ _ _ _)

theorem xorReg (x : Reg) (y : Reg) : Statement (.xorReg x y) :=
  of_other ⟨13, by decide⟩ (fun _ => wordXYN_mask_n 0x8#4 x y 0x3#4)
    fun _ => congrArg₂ Instr.xorReg (fieldX_wordXYN _ _ _ _) (fieldY_wordXYN _ _ _ _)

theorem addReg (x : Reg) (y : Reg) : Statement (.addReg x y) :=
  of_other ⟨14, by decide⟩ (fun _ => wordXYN_mask_n 0x8#4 x y 0x4#4)
    fun _ => congrArg₂ Instr.addReg (fieldX_wordXYN _ _ _ _) (fieldY_wordXYN _ _ _ _)

theorem subReg (x : Reg) (y : Reg) : Statement (.subReg x y) :=
  of_other ⟨15, by decide⟩ (fun _ => wordXYN_mask_n 0x8#4 x y 0x5#4)
    fun _ => congrArg₂ Instr.subReg (fieldX_wordXYN _ _ _ _) (fieldY_wordXYN _ _ _ _)

theorem shrReg (x : Reg) (y : Reg) : Statement (.shrReg x y) :=
  of_other ⟨16, by decide⟩ (fun _ => wordXYN_mask_n 0x8#4 x y 0x6#4)
    fun _ => congrArg₂ Instr.shrReg (fieldX_wordXYN _ _ _ _) (fieldY_wordXYN _ _ _ _)

theorem subnReg (x : Reg) (y : Reg) : Statement (.subnReg x y) :=
  of_other ⟨17, by decide⟩ (fun _ => wordXYN_mask_n 0x8#4 x y 0x7#4)
    fun _ => congrArg₂ Instr.subnReg (fieldX_wordXYN _ _ _ _) (fieldY_wordXYN _ _ _ _)

theorem shlReg (x : Reg) (y : Reg) : Statement (.shlReg x y) :=
  of_other ⟨18, by decide⟩ (fun _ => wordXYN_mask_n 0x8#4 x y 0xE#4)
    fun _ => congrArg₂ Instr.shlReg (fieldX_wordXYN _ _ _ _) (fieldY_wordXYN _ _ _ _)

theorem sneReg (x : Reg) (y : Reg) : Statement (.sneReg x y) :=
  of_other ⟨19, by decide⟩ (fun _ => wordXYN_mask_n 0x9#4 x y 0x0#4)
    fun _ => congrArg₂ Instr.sneReg (fieldX_wordXYN _ _ _ _) (fieldY_wordXYN _ _ _ _)

theorem ldI (nnn : Addr) : Statement (.ldI nnn) :=
  of_other ⟨2, by decide⟩ (fun _ => wordNNN_mask 0xA#4 nnn)
    fun _ => congrArg Instr.ldI (fieldNNN_wordNNN _ _)

theorem jpV0 (nnn : Addr) : Statement (.jpV0 nnn) :=
  of_other ⟨3, by decide⟩ (fun _ => wordNNN_mask 0xB#4 nnn)
    fun _ => congrArg Instr.jpV0 (fieldNNN_wordNNN _ _)

theorem rnd (x : Reg) (kk : Byte) : Statement (.rnd x kk) :=
  of_other ⟨8, by decide⟩ (fun _ => wordXKK_mask 0xC#4 x kk)
    fun _ => congrArg₂ Instr.rnd (fieldX_wordXKK _ _ _) (fieldKK_wordXKK _ _ _)

theorem drw (x : Reg) (y : Reg) (n : BitVec 4) : Statement (.drw x y n) :=
  of_other ⟨20, by decide⟩ (fun _ => wordXYN_mask 0xD#4 x y n) fun _ => by
    show Instr.drw (fieldX _) (fieldY _) (fieldN _) = _
    simp [encode]

theorem skp (x : Reg) : Statement (.skp x) :=
  of_other ⟨21, by decide⟩ (fun _ => wordXKK_mask_kk 0xE#4 x 0x9E#8)
    fun _ => congrArg Instr.skp (fieldX_wordXKK _ _ _)

theorem sknp (x : Reg) : Statement (.sknp x) :=
  of_other ⟨22, by decide⟩ (fun _ => wordXKK_mask_kk 0xE#4 x 0xA1#8)
    fun _ => congrArg Instr.sknp (fieldX_wordXKK _ _ _)

theorem ldVxDT (x : Reg) : Statement (.ldVxDT x) :=
  of_other ⟨23, by decide⟩ (fun _ => wordXKK_mask_kk 0xF#4 x 0x07#8)
    fun _ => congrArg Instr.ldVxDT (fieldX_wordXKK _ _ _)

theorem ldVxK (x : Reg) : Statement (.ldVxK x) :=
  of_other ⟨24, by decide⟩ (fun _ => wordXKK_mask_kk 0xF#4 x 0x0A#8)
    fun _ => congrArg Instr.ldVxK (fieldX_wordXKK _ _ _)

theorem ldDTVx (x : Reg) : Statement (.ldDTVx x) :=
  of_other ⟨25, by decide⟩ (fun _ => wordXKK_mask_kk 0xF#4 x 0x15#8)
    fun _ => congrArg Instr.ldDTVx (fieldX_wordXKK _ _ _)

theorem ldSTVx (x : Reg) : Statement (.ldSTVx x) :=
  of_other ⟨26, by decide⟩ (fun _ => wordXKK_mask_kk 0xF#4 x 0x18#8)
    fun _ => congrArg Instr.ldSTVx (fieldX_wordXKK _ _ _)

theorem addI (x : Reg) : Statement (.addI x) :=
  of_other ⟨27, by decide⟩ (fun _ => wordXKK_mask_kk 0xF#4 x 0x1E#8)
    fun _ => congrArg Instr.addI (fieldX_wordXKK _ _ _)

theorem ldF (x : Reg) : Statement (.ldF x) :=
  of_other ⟨28, by decide⟩ (fun _ => wordXKK_mask_kk 0xF#4 x 0x29#8)
    fun _ => congrArg Instr.ldF (fieldX_wordXKK _ _ _)

theorem ldB (x : Reg) : Statement (.ldB x) :=
  of_other ⟨29, by decide⟩ (fun _ => wordXKK_mask_kk 0xF#4 x 0x33#8)
    fun _ => congrArg Instr.ldB (fieldX_wordXKK _ _ _)

theorem storeRegs (x : Reg) : Statement (.storeRegs x) :=
  of_other ⟨30, by decide⟩ (fun _ => wordXKK_mask_kk 0xF#4 x 0x55#8)
    fun _ => congrArg Instr.storeRegs (fieldX_wordXKK _ _ _)

theorem loadRegs (x : Reg) : Statement (.loadRegs x) :=
  of_other ⟨31, by decide⟩ (fun _ => wordXKK_mask_kk 0xF#4 x 0x65#8)
    fun _ => congrArg Instr.loadRegs (fieldX_wordXKK _ _ _)

end Sys2Proof.Laws.EncodedRow
end

