-- ==== Sys2Proof/Tests/Slice0.lean ====
section
/-! SUPPORT. Tests. Every expected value is written from the spec: the vectors of spec/95_test_vectors.md, the worked
examples of the rules, or words put together by hand from the encoding table of 30_encoding.md R83. -/

namespace Sys2Proof.Tests

open Machine

/-- The outcome is a next state with the property. -/
def gives (o : Host.Outcome State Fault Refusal) (p : State → Bool) : Bool :=
  match o with
  | .next t => p t
  | .fault _ => false
  | .refused _ => false

/-- The outcome is this fault. -/
def faultsWith (o : Host.Outcome State Fault Refusal) (f : Fault) : Bool :=
  match o with
  | .next _ => false
  | .fault r => r == f
  | .refused _ => false

/-- The state after reset with an opcode placed at `pc`. -/
def at200 (op : Nat) : State := State.reset.withFetchWord 16 op

/-- Registers set to given values. -/
def withRegs (s : State) (l : List (Reg × Byte)) : State := l.foldl (fun s p => s.setReg p.1 p.2) s

/-- Bytes of memory set to given values. -/
def withBytes (s : State) (l : List (Word × Byte)) : State := l.foldl (fun s p => s.writeByte p.1 p.2) s

/-- One key source with the listed keys pressed. -/
def keysOf (l : List Nat) : Keys := Vector.ofFn fun k => l.contains k.val

/-- The listed keys pressed on source `p`. -/
def withKeys (s : State) (p : Fin 16) (l : List Nat) : State :=
  { s with inputs := { s.inputs with keys := s.inputs.keys.set p.val (keysOf l) p.isLt } }

/-- A coordinator attached, with a player count and an answer. -/
def withCoord (s : State) (players : Nat) (complete : Bool) : State :=
  { s with
      cfg := { s.cfg with coordPresent := true }
      inputs := { s.inputs with playerCount := players, barrierComplete := complete } }

/-- Memory reads as listed. -/
def bytesAre (t : State) (l : List (Word × Byte)) : Bool := l.all fun p => t.readByte p.1 == p.2

/-- The places of the pixels that are on. -/
def lit (t : State) : List Nat := t.display.map Prod.fst

/-! ## Well-formedness: the parameters taken, and an ill-formed choice for each check -/

theorem test_parameters_taken : defaultConfig.wellFormed = true := by decide
theorem test_layout_refuses_short_font : { defaultLayout with fontData := [0xF0#8] }.wellFormed = false := by decide
theorem test_layout_refuses_font_over_program : { defaultLayout with programOrigin := 0x80 }.wellFormed = false := by decide
theorem test_layout_refuses_origin_outside : { defaultLayout with programOrigin := 0x1000 }.wellFormed = false := by decide
theorem test_layout_refuses_block_outside_group0 : { defaultLayout with mpBase := 0x1000 }.wellFormed = false := by decide
theorem test_layout_refuses_unaligned_block : { defaultLayout with mpBase := 0x0208 }.wellFormed = false := by decide
theorem test_layout_refuses_shared_outside_group0 : { defaultLayout with mpShared := 0x1110 }.wellFormed = false := by decide
theorem test_layout_refuses_block_over_cls : { defaultLayout with mpBase := 0x00E0 }.wellFormed = false := by decide
theorem test_layout_refuses_shared_over_ret : { defaultLayout with mpShared := 0x00EE }.wellFormed = false := by decide
theorem test_layout_refuses_shared_in_block : { defaultLayout with mpShared := 0x0108 }.wellFormed = false := by decide
theorem test_prng_refuses_byte_outside_state : { defaultConfig with prngWidth := 16 }.wellFormed = false := by decide
theorem test_image_refused_when_too_long : defaultLayout.imageFits 3585 = false := by decide
theorem test_image_taken_when_it_fits : defaultLayout.imageFits 3584 = true := by decide

/-! ## Overridden parameters (00_scope.md R6) -/

/-- Another instance: origin 0x600, glyphs at 0x000, SYNC at 0x0200, SHARED at 0x0300, a 16-bit generator. -/
def moved : Config :=
  { defaultConfig with
      layout := { defaultLayout with programOrigin := 0x600, fontBase := 0, mpBase := 0x0200, mpShared := 0x0300 },
      prngWidth := 16, prngMul := 5, prngInc := 3, prngMap := .bits 8 }

theorem test_moved_taken : moved.wellFormed = true := by decide
theorem test_moved_words : [0x0203, 0x0300, 0x0103].map (fun w => decode moved (BitVec.ofNat 16 w))
    = [.instr .player3, .instr .shared, .nop .legacySys] := by decide
theorem test_moved_load : gives (step { State.reset with cfg := moved, script := [.load [0x02#8] (some 0x12345)] })
    (fun t => t.pc == 0x600#16 && t.rng == 0x2345 && bytesAre t [(0x600#16, 0x02#8), (0x000#16, 0xF0#8), (0x050#16, 0x00#8)])
    = true := by decide
/-- 5 * 0x1234 + 3 = 0x5B07. -/
theorem test_moved_rnd : gives (exec (.rnd 0x1#4 0xFF#8) { State.reset with cfg := moved, rng := 0x1234 })
    (fun t => t.rng == 0x5B07 && t.reg 0x1#4 == 0x5B#8) = true := by decide

/-! ## Decoding: each row's word, written out from R83 -/

theorem test_decode_group0 :
    [0x00E0, 0x00EE, 0x0100, 0x0110].map (decodeTableWord 16)
      = [some .cls, some .ret, some .sync, some .shared] := by decide

theorem test_decode_players_1_to_8 :
    [0x0101, 0x0102, 0x0103, 0x0104, 0x0105, 0x0106, 0x0107, 0x0108].map (decodeTableWord 16)
      = [some .player1, some .player2, some .player3, some .player4, some .player5, some .player6, some .player7,
         some .player8] := by decide

theorem test_decode_players_9_to_15 :
    [0x0109, 0x010A, 0x010B, 0x010C, 0x010D, 0x010E, 0x010F].map (decodeTableWord 16)
      = [some .player9, some .player10, some .player11, some .player12, some .player13, some .player14,
         some .player15] := by decide

theorem test_decode_addresses :
    [0x1ABC, 0x2ABC, 0xAABC, 0xBABC].map (decodeTableWord 16)
      = [some (.jp 0xABC#12), some (.call 0xABC#12), some (.ldI 0xABC#12), some (.jpV0 0xABC#12)] := by decide

theorem test_decode_immediates :
    [0x3A5C, 0x4A5C, 0x6A5C, 0x7A5C, 0xCA5C].map (decodeTableWord 16)
      = [some (.seImm 0xA#4 0x5C#8), some (.sneImm 0xA#4 0x5C#8), some (.ldImm 0xA#4 0x5C#8),
         some (.addImm 0xA#4 0x5C#8), some (.rnd 0xA#4 0x5C#8)] := by decide

theorem test_decode_alu_0_to_4 :
    [0x8AB0, 0x8AB1, 0x8AB2, 0x8AB3, 0x8AB4].map (decodeTableWord 16)
      = [some (.ldReg 0xA#4 0xB#4), some (.orReg 0xA#4 0xB#4), some (.andReg 0xA#4 0xB#4), some (.xorReg 0xA#4 0xB#4),
         some (.addReg 0xA#4 0xB#4)] := by decide

theorem test_decode_alu_5_to_E :
    [0x8AB5, 0x8AB6, 0x8AB7, 0x8ABE].map (decodeTableWord 16)
      = [some (.subReg 0xA#4 0xB#4), some (.shrReg 0xA#4 0xB#4), some (.subnReg 0xA#4 0xB#4),
         some (.shlReg 0xA#4 0xB#4)] := by decide

theorem test_decode_register_pairs :
    [0x5AB0, 0x9AB0, 0xDAB7].map (decodeTableWord 16)
      = [some (.seReg 0xA#4 0xB#4), some (.sneReg 0xA#4 0xB#4), some (.drw 0xA#4 0xB#4 0x7#4)] := by decide

theorem test_decode_keys_and_timers :
    [0xEA9E, 0xEAA1, 0xFA07, 0xFA0A, 0xFA15, 0xFA18].map (decodeTableWord 16)
      = [some (.skp 0xA#4), some (.sknp 0xA#4), some (.ldVxDT 0xA#4), some (.ldVxK 0xA#4), some (.ldDTVx 0xA#4),
         some (.ldSTVx 0xA#4)] := by decide

theorem test_decode_index_and_blocks :
    [0xFA1E, 0xFA29, 0xFA33, 0xFA55, 0xFA65].map (decodeTableWord 16)
      = [some (.addI 0xA#4), some (.ldF 0xA#4), some (.ldB 0xA#4), some (.storeRegs 0xA#4),
         some (.loadRegs 0xA#4)] := by decide

theorem test_decode_noops_by_name :
    [0x0000, 0x0111, 0x5AB1, 0x8AB8, 0x9ABF, 0xEA9F, 0xFA66].map (fun w => decode defaultConfig (BitVec.ofNat 16 w))
      = [.nop .legacySys, .nop .legacySys, .nop .skipLowNibble, .nop .aluSubcode, .nop .skipLowNibble, .nop .keySubcode,
         .nop .fSubcode] := by decide

/-- R88: under `ignore` the words 5XYn and 9XYn execute as 5XY0 and 9XY0. -/
theorem test_decode_ignore_low_nibble :
    [0x5AB1, 0x9ABF].map (fun w => decode { defaultConfig with skipLowNibble := .ignore } (BitVec.ofNat 16 w))
      = [.instr (.seReg 0xA#4 0xB#4), .instr (.sneReg 0xA#4 0xB#4)] := by decide

theorem test_encode_words :
    [.drw 0x1#4 0x2#4 0x5#4, .shlReg 0xC#4 0xA#4, .rnd 0x0#4 0x0F#8, .player15].map (encode defaultLayout)
      = [0xD125#16, 0x8CAE#16, 0xC00F#16, 0x010F#16] := by decide

/-! ## Flow: V-FLOW, W2, P6 -/

theorem test_cls : gives (step { at200 0x00E0 with display := [(5, 1#8)] })
    (fun t => lit t == [] && t.drawFlag && t.events == [.surfaceClear] && t.pc == 0x202#16 && t.status == .executed)
    = true := by decide

theorem test_call : gives (step (at200 0x2FFE))
    (fun t => t.pc == 0xFFE#16 && t.sp.val == 1 && t.stack[0] == 0x202#16) = true := by decide

theorem test_call_overflow : gives (step { at200 0x2200 with sp := 16 })
    (fun t => t.halted && t.sp.val == 16 && t.pc == 0x202#16 && t.status == .halted) = true := by decide

theorem test_ret : gives (step { at200 0x00EE with pc := 0x200#16, sp := 1, stack := Vector.replicate 16 0x202#16 })
    (fun t => t.pc == 0x202#16 && t.sp.val == 0 && t.status == .executed) = true := by decide

theorem test_ret_underflow : gives (step (at200 0x00EE))
    (fun t => t.halted && t.sp.val == 0 && t.pc == 0x202#16 && t.status == .halted) = true := by decide

theorem test_jp : gives (step (at200 0x1ABC)) (fun t => t.pc == 0xABC#16) = true := by decide

theorem test_jpV0_wraps : gives (step (withRegs (at200 0xBFFF) [(0x0#4, 0x02#8)])) (fun t => t.pc == 0x001#16)
    = true := by decide

theorem test_jpV0_ignores_x : gives (step (withRegs (at200 0xB300) [(0x0#4, 0xFF#8), (0x3#4, 0x11#8)]))
    (fun t => t.pc == 0x3FF#16) = true := by decide

/-- V-FLOW row 8: the fetch wraps inside the opcode. -/
theorem test_fetch_wraps : gives (step { withBytes State.reset [(0xFFF#16, 0x61#8), (0x000#16, 0x23#8)] with pc := 0xFFF#16 })
    (fun t => t.reg 0x1#4 == 0x23#8 && t.pc == 0x001#16) = true := by decide

theorem test_sys_noop : gives (step (at200 0x0123))
    (fun t => t == { at200 0x0123 with pc := 0x202#16, status := .executed }) = true := by decide

/-! ## Skips: V-SKIP -/

theorem test_seImm : gives (step (at200 0x3000)) (fun t => t.pc == 0x204#16) = true := by decide
theorem test_seImm_not_taken : gives (step (withRegs (at200 0x3000) [(0x0#4, 0x01#8)])) (fun t => t.pc == 0x202#16)
    = true := by decide
theorem test_sneImm : gives (step (withRegs (at200 0x4211) [(0x2#4, 0x10#8)])) (fun t => t.pc == 0x204#16)
    = true := by decide
theorem test_sneImm_not_taken : gives (step (withRegs (at200 0x4211) [(0x2#4, 0x11#8)])) (fun t => t.pc == 0x202#16)
    = true := by decide
theorem test_seReg : gives (step (withRegs (at200 0x5340) [(0x3#4, 0x7F#8), (0x4#4, 0x7F#8)]))
    (fun t => t.pc == 0x204#16) = true := by decide
theorem test_sneReg : gives (step (withRegs (at200 0x9340) [(0x3#4, 0x01#8), (0x4#4, 0x02#8)]))
    (fun t => t.pc == 0x204#16) = true := by decide
theorem test_sneReg_not_taken : gives (step (withRegs (at200 0x9340) [(0x3#4, 0x01#8), (0x4#4, 0x01#8)]))
    (fun t => t.pc == 0x202#16) = true := by decide
theorem test_skp_masks_key : gives (step (withKeys (withRegs (at200 0xE19E) [(0x1#4, 0x13#8)]) 0 [3]))
    (fun t => t.pc == 0x204#16) = true := by decide
theorem test_skp_not_taken : gives (step (withKeys (withRegs (at200 0xE19E) [(0x1#4, 0x04#8)]) 0 [3]))
    (fun t => t.pc == 0x202#16) = true := by decide
theorem test_sknp : gives (step (withKeys (withRegs (at200 0xE1A1) [(0x1#4, 0x04#8)]) 0 [3]))
    (fun t => t.pc == 0x204#16) = true := by decide
/-- R147 under `oor_released`. -/
theorem test_sknp_out_of_range : gives (step { withKeys (withRegs (at200 0xE1A1) [(0x1#4, 0x13#8)]) 0 [3] with
    cfg := { defaultConfig with keyIndexMode := .oorReleased } }) (fun t => t.pc == 0x204#16) = true := by decide

/-! ## ALU: V-ALU -/

/-- One ALU instruction with V0, V1 and VF = 0x77 before, and V0, V1 and VF after. -/
def alu (op : Nat) (v0 v1 r0 r1 rf : Byte) : Bool :=
  gives (step (withRegs (at200 op) [(0x0#4, v0), (0x1#4, v1), (0xF#4, 0x77#8)]))
    (fun t => t.reg 0x0#4 == r0 && t.reg 0x1#4 == r1 && t.reg 0xF#4 == rf && t.pc == 0x202#16)

theorem test_addReg : (alu 0x8014 0xC8#8 0x64#8 0x2C#8 0x64#8 0x01#8 && alu 0x8014 0x01#8 0xFF#8 0x00#8 0xFF#8 0x01#8
    && alu 0x8014 0x10#8 0x20#8 0x30#8 0x20#8 0x00#8) = true := by decide
theorem test_subReg : (alu 0x8015 0x30#8 0x10#8 0x20#8 0x10#8 0x01#8 && alu 0x8015 0x10#8 0x30#8 0xE0#8 0x30#8 0x00#8
    && alu 0x8015 0x42#8 0x42#8 0x00#8 0x42#8 0x01#8) = true := by decide
theorem test_subnReg : (alu 0x8017 0x10#8 0x30#8 0x20#8 0x30#8 0x01#8 && alu 0x8017 0x30#8 0x10#8 0xE0#8 0x10#8 0x00#8
    && alu 0x8017 0x42#8 0x42#8 0x00#8 0x42#8 0x01#8) = true := by decide
theorem test_shrReg : (alu 0x8016 0x00#8 0x05#8 0x02#8 0x05#8 0x01#8 && alu 0x8016 0xFF#8 0x04#8 0x02#8 0x04#8 0x00#8)
    = true := by decide
theorem test_shlReg : (alu 0x801E 0x00#8 0x81#8 0x02#8 0x81#8 0x01#8 && alu 0x801E 0x00#8 0x40#8 0x80#8 0x40#8 0x00#8)
    = true := by decide
theorem test_orReg : alu 0x8011 0xF0#8 0x0F#8 0xFF#8 0x0F#8 0x00#8 = true := by decide
theorem test_andReg : alu 0x8012 0xF0#8 0x3C#8 0x30#8 0x3C#8 0x00#8 = true := by decide
theorem test_xorReg : alu 0x8013 0xFF#8 0x0F#8 0xF0#8 0x0F#8 0x00#8 = true := by decide
theorem test_ldReg : alu 0x8010 0x12#8 0x34#8 0x34#8 0x34#8 0x77#8 = true := by decide
theorem test_aluSubcode_noop : alu 0x8018 0x12#8 0x34#8 0x12#8 0x34#8 0x77#8 = true := by decide

theorem test_addReg_flag_survives : gives (step (withRegs (at200 0x8F14) [(0xF#4, 0xFF#8), (0x1#4, 0x02#8)]))
    (fun t => t.reg 0xF#4 == 0x01#8) = true := by decide
/-- R150 with VF_WRITE_LAST false: for x = F the result survives. -/
theorem test_addReg_result_survives : gives (step { withRegs (at200 0x8F14) [(0xF#4, 0xFE#8), (0x1#4, 0x05#8)] with
    cfg := { defaultConfig with vfWriteLast := false } }) (fun t => t.reg 0xF#4 == 0x03#8) = true := by decide
theorem test_orReg_discards_into_VF : gives (step (withRegs (at200 0x8F11) [(0xF#4, 0x0F#8), (0x1#4, 0xF0#8)]))
    (fun t => t.reg 0xF#4 == 0x00#8) = true := by decide
theorem test_shrReg_reads_old_VF : gives (step (withRegs (at200 0x81F6) [(0x1#4, 0x00#8), (0xF#4, 0x03#8)]))
    (fun t => t.reg 0x1#4 == 0x01#8 && t.reg 0xF#4 == 0x01#8) = true := by decide
theorem test_ldImm : gives (step (at200 0x6AB7)) (fun t => t.reg 0xA#4 == 0xB7#8) = true := by decide
theorem test_addImm_no_flag : gives (step (withRegs (at200 0x75FF) [(0x5#4, 0x02#8), (0xF#4, 0x55#8)]))
    (fun t => t.reg 0x5#4 == 0x01#8 && t.reg 0xF#4 == 0x55#8) = true := by decide
theorem test_addImm_VF : gives (step (withRegs (at200 0x7F01) [(0xF#4, 0xFF#8)])) (fun t => t.reg 0xF#4 == 0x00#8)
    = true := by decide

/-! ## Index, random, draw: V-DRW, V-RND -/

theorem test_ldI : gives (step (at200 0xA123)) (fun t => t.index == 0x123#16) = true := by decide

/-- V-RND: the first outputs of seeds 0x12345678 and 0. -/
theorem test_rnd : gives (step { at200 0xC0FF with rng := prngSeed defaultConfig 0x12345678 }) (fun t => t.reg 0x0#4 == 0x75#8)
    = true := by decide
theorem test_rnd_masked : gives (step (at200 0xCF0F)) (fun t => t.reg 0xF#4 == 0x0C#8) = true := by decide

/-- V-DRW row 2: the glyph "0" at (0,0), 14 pixels: F0, 90, 90, 90, F0. -/
theorem test_drw_glyph : gives (step { at200 0xD015 with index := 0x050#16 })
    (fun t => lit t == [0, 1, 2, 3, 64, 67, 128, 131, 192, 195, 256, 257, 258, 259] && t.reg 0xF#4 == 0x00#8
      && t.drawFlag && t.events == [.surfaceUpdate t.display]) = true := by decide

/-- V-DRW row 8: XOR, collision and an unrelated pixel. -/
theorem test_drw_collision : gives (step { withBytes (at200 0xD011) [(0x300#16, 0xC0#8)] with
    index := 0x300#16, display := [(1, 1#8), (10, 1#8)] }) (fun t => lit t == [0, 10] && t.reg 0xF#4 == 0x01#8)
    = true := by decide

/-- V-DRW row 5: the start wraps to (60,31), then both edges clip. -/
theorem test_drw_clips : gives (step { withRegs (at200 0xD125) [(0x1#4, 0x7C#8), (0x2#4, 0x3F#8)] with index := 0x050#16 })
    (fun t => lit t == [2044, 2045, 2046, 2047]) = true := by decide

/-- V-DRW row 10: a coordinate in VF is read before VF is written. -/
theorem test_drw_latches_VF : gives (step { withRegs (at200 0xDFE1) [(0xF#4, 0x05#8)] with index := 0x050#16 })
    (fun t => lit t == [5, 6, 7, 8] && t.reg 0xF#4 == 0x00#8) = true := by decide

/-- V-DRW row 7: the sprite rows wrap in memory. -/
theorem test_drw_rows_wrap : gives (step { withBytes (at200 0xD012) [(0xFFF#16, 0x80#8), (0x000#16, 0x40#8)] with
    index := 0xFFF#16 }) (fun t => lit t == [0, 65]) = true := by decide

/-! ## Group F: V-FX -/

theorem test_ldVxDT : gives (step { at200 0xF307 with delayTimer := 0x3C#8 })
    (fun t => t.reg 0x3#4 == 0x3C#8 && t.delayTimer == 0x3C#8) = true := by decide
theorem test_ldVxK_arms : gives (step { at200 0xF20A with waitingPhase := .release })
    (fun t => t.waitingForKey && t.waitingPhase == .press && t.waitingTargetRegister == 0x2#4 && t.pc == 0x202#16
      && t.status == .executed) = true := by decide
theorem test_ldDTVx : gives (step (withRegs (at200 0xF015) [(0x0#4, 0x3C#8)])) (fun t => t.delayTimer == 0x3C#8)
    = true := by decide
theorem test_ldSTVx : gives (step (withRegs (at200 0xF518) [(0x5#4, 0x02#8)]))
    (fun t => t.soundTimer == 0x02#8 && t.events == [.toneStart]) = true := by decide
theorem test_ldSTVx_zero : gives (step { at200 0xF018 with soundTimer := 0x09#8 })
    (fun t => t.soundTimer == 0x00#8 && t.events == []) = true := by decide
theorem test_addI_wraps : gives (step { withRegs (at200 0xF11E) [(0x1#4, 0x02#8), (0xF#4, 0x07#8)] with index := 0xFFF#16 })
    (fun t => t.index == 0x001#16 && t.reg 0xF#4 == 0x07#8) = true := by decide
theorem test_ldF_low_nibble : gives (step (withRegs (at200 0xF129) [(0x1#4, 0x1A#8)])) (fun t => t.index == 0x082#16)
    = true := by decide
theorem test_ldB : gives (step { withRegs (at200 0xF033) [(0x0#4, 0xFE#8)] with index := 0x300#16 })
    (fun t => bytesAre t [(0x300#16, 0x02#8), (0x301#16, 0x05#8), (0x302#16, 0x04#8)] && t.index == 0x300#16)
    = true := by decide
theorem test_ldB_wraps : gives (step { withRegs (at200 0xF033) [(0x0#4, 0x7B#8)] with index := 0xFFF#16 })
    (fun t => bytesAre t [(0xFFF#16, 0x01#8), (0x000#16, 0x02#8), (0x001#16, 0x03#8)] && t.index == 0xFFF#16)
    = true := by decide
theorem test_storeRegs_wraps : gives (step { withRegs (at200 0xF155) [(0x0#4, 0xAA#8), (0x1#4, 0xBB#8)] with
    index := 0xFFF#16 }) (fun t => bytesAre t [(0xFFF#16, 0xAA#8), (0x000#16, 0xBB#8)] && t.index == 0x001#16)
    = true := by decide
/-- R197: x = 0 transfers one register. -/
theorem test_storeRegs_one : gives (step { withRegs (at200 0xF055) [(0x0#4, 0x0B#8), (0x1#4, 0x0C#8)] with
    index := 0x303#16 }) (fun t => bytesAre t [(0x303#16, 0x0B#8), (0x304#16, 0x00#8)] && t.index == 0x304#16)
    = true := by decide
/-- V-FX row 10: all 16 registers from the glyph table. -/
theorem test_loadRegs_all : gives (step { at200 0xFF65 with index := 0x050#16 })
    (fun t => t.v.toList == [0xF0#8, 0x90#8, 0x90#8, 0x90#8, 0xF0#8, 0x20#8, 0x60#8, 0x20#8, 0x20#8, 0x70#8, 0xF0#8,
      0x10#8, 0xF0#8, 0x80#8, 0xF0#8, 0xF0#8] && t.index == 0x060#16) = true := by decide

/-! ## Multiplayer: V-MP -/

theorem test_sync_alone : gives (step (at200 0x0100))
    (fun t => t.syncBarrier && t.events == [] && t.pc == 0x202#16) = true := by decide
theorem test_sync_notifies : gives (step (withCoord (at200 0x0100) 2 false))
    (fun t => t.syncBarrier && t.events == [.notifyArrival]) = true := by decide
theorem test_players_1_to_8 : ([0x0101, 0x0102, 0x0103, 0x0104, 0x0105, 0x0106, 0x0107, 0x0108].all fun w =>
    gives (step (at200 w)) (fun t => t.activePlayer.toNat == w - 0x0100)) = true := by decide
theorem test_players_9_to_15 : ([0x0109, 0x010A, 0x010B, 0x010C, 0x010D, 0x010E, 0x010F].all fun w =>
    gives (step (at200 w)) (fun t => t.activePlayer.toNat == w - 0x0100)) = true := by decide
theorem test_shared : gives (step { at200 0x0110 with activePlayer := 3#4 }) (fun t => t.activePlayer == 0#4)
    = true := by decide

/-! ## The cycle: V-MP, V-KEY, W4 -/

theorem test_barrier_clears_alone : gives (step { at200 0x6105 with syncBarrier := true })
    (fun t => !t.syncBarrier && t.reg 0x1#4 == 0x05#8 && t.status == .executed) = true := by decide
theorem test_barrier_blocks : gives (step { withKeys (withCoord (at200 0x6105) 2 false) 0 [1] with syncBarrier := true })
    (fun t => t.syncBarrier && t.reg 0x1#4 == 0x00#8 && t.pc == 0x200#16 && t.keyState == keysOf []
      && t.status == .blockedBarrier) = true := by decide
theorem test_barrier_opens : gives (step { withCoord (at200 0x6105) 2 true with syncBarrier := true })
    (fun t => !t.syncBarrier && t.reg 0x1#4 == 0x05#8) = true := by decide
theorem test_invalid_player : faultsWith (step { withCoord (at200 0x6005) 2 false with activePlayer := 3#4 })
    (.invalidPlayerId 3#4) = true := by decide
theorem test_player_without_coordinator : gives (step { withKeys (at200 0x6005) 0 [1] with activePlayer := 2#4 })
    (fun t => t.keyState == keysOf [1] && t.reg 0x0#4 == 0x05#8) = true := by decide
theorem test_player_source : gives (step { withKeys (withKeys (withCoord (at200 0x6005) 2 false) 1 [4]) 0 [9] with
    activePlayer := 1#4 }) (fun t => t.keyState == keysOf [4]) = true := by decide

/-- A key wait on V[5], in the given phase with the given tracked key. -/
def waiting (phase : WaitPhase) (k : BitVec 4) : State :=
  { at200 0x6201 with waitingForKey := true, waitingPhase := phase, waitingTrackedKey := k, waitingTargetRegister := 0x5#4 }

theorem test_press_tracks_lowest : gives (step (withKeys (waiting .press 0#4) 0 [3, 9]))
    (fun t => t.waitingPhase == .release && t.waitingTrackedKey == 3#4 && t.pc == 0x200#16 && t.status == .blockedKey)
    = true := by decide
theorem test_release_ignores_others : gives (step (withKeys (waiting .release 3#4) 0 [3, 5]))
    (fun t => t.waitingForKey && t.reg 0x5#4 == 0x00#8) = true := by decide
theorem test_release_completes : gives (step (withKeys (waiting .release 3#4) 0 [5]))
    (fun t => !t.waitingForKey && t.waitingPhase == .press && t.reg 0x5#4 == 0x03#8 && t.pc == 0x200#16
      && t.status == .blockedKey) = true := by decide
theorem test_halted_does_nothing : gives (step { withKeys (at200 0x6005) 0 [1] with halted := true })
    (fun t => t == { withKeys (at200 0x6005) 0 [1] with halted := true, status := .halted }) = true := by decide

/-! ## The other host operations: V-FX rows 16 and 18, V-LOAD -/

theorem test_tick_stops_tone : gives (step { State.reset with script := [.tick], soundTimer := 1#8, delayTimer := 5#8 })
    (fun t => t.soundTimer == 0#8 && t.delayTimer == 4#8 && t.events == [.toneStop]) = true := by decide
theorem test_tick_floors : gives (step { State.reset with script := [.tick] })
    (fun t => t.soundTimer == 0#8 && t.delayTimer == 0#8 && t.events == []) = true := by decide
theorem test_tick_halted_gated : gives (step { State.reset with
    script := [.tick], halted := true, delayTimer := 5#8, cfg := { defaultConfig with tickWhileHalted := false } })
    (fun t => t.delayTimer == 5#8) = true := by decide
theorem test_load : gives (step { State.reset with
    script := [.load [0x60#8, 0x42#8] (some 1)], halted := true, pc := 0x300#16 })
    (fun t => !t.halted && t.pc == 0x200#16 && bytesAre t [(0x200#16, 0x60#8), (0x201#16, 0x42#8), (0x202#16, 0x00#8)]
      && t.rng == 1) = true := by decide
theorem test_reset_drops_program : gives (step { withBytes State.reset [(0x200#16, 0x60#8), (0x050#16, 0x00#8)] with
    script := [.reset (some 0)], waitingForKey := true })
    (fun t => t == State.reset && bytesAre t [(0x200#16, 0x00#8), (0x050#16, 0xF0#8), (0x09F#16, 0x80#8), (0x0A0#16, 0x00#8)])
    = true := by decide
theorem test_ackDraw : gives (step { State.reset with script := [.ackDraw], drawFlag := true })
    (fun t => t == State.reset) = true := by decide

/-! ## The error tags of R221 -/

/-- What the step from a state raises. -/
def raised (s : State) : Option ErrorTag := raisedBy s (step s)

theorem test_tag_overflow : raised { at200 0x2200 with sp := 16 } = some .stackOverflow := by decide
theorem test_tag_underflow : (raised (at200 0x00EE)).map ErrorTag.code = some 2 := by decide
theorem test_tag_player : raised { withCoord (at200 0x6005) 2 false with activePlayer := 3#4 }
    = some (.invalidPlayerId 3#4) := by decide
theorem test_tag_none : raised (at200 0x6005) = none := by decide
theorem test_tag_load : raised { State.reset with script := [.load (List.replicate 3585 0#8) none] }
    = some (.loadRejected 3585) := by
  have h : (List.replicate 3585 0#8).length = 3585 := List.length_replicate
  have hl : defaultLayout.imageFits 3585 = false := by decide
  have hs : step { State.reset with script := [.load (List.replicate 3585 0#8) none] }
      = .next { State.reset with status := .loadRejected 3585 } := by
    show Host.Outcome.next (if defaultLayout.imageFits (List.replicate 3585 0#8).length = true then _ else _) = _
    rw [h, hl]; rfl
  unfold raised
  rw [hs]; rfl
/-- A tick after a rejected load raises nothing, and a halted machine keeps its own tag. -/
theorem test_tag_not_stale : ∀ s : State, s = { State.reset with status := .loadRejected 3585, halted := true, script := [.tick] } →
    raised s = none ∧ s.haltTag = some .stackUnderflow := by rintro s rfl; decide

/-! ## The reference coordinator and the debug surface -/

/-- V-MP 2: SYNC counts an arrival of the two. -/
theorem test_ref_coordinator_counts : (match cycleWith (RefCoordinator.start 2 (by decide)) (withCoord (at200 0x0100) 2 false) with
    | .next p => p.1 == ⟨2, 1⟩
    | .fault _ => false
    | .refused _ => false) = true := by decide
/-- V-MP 2: with both arrived the barrier opens and the count starts anew. -/
theorem test_ref_coordinator_opens : (match cycleWith ⟨2, 2⟩ { withCoord (at200 0x6105) 2 false with syncBarrier := true } with
    | .next p => p.1 == ⟨2, 0⟩ && p.2.reg 0x1#4 == 0x05#8
    | .fault _ => false
    | .refused _ => false) = true := by decide
theorem test_sampleRect : { State.reset with display := [(65, 1#8)] }.sampleRect 'x' '.' 0 1 3 1
    = .ok [['.', 'x', '.']] := by decide
theorem test_sampleRect_refused : State.reset.sampleRect 'x' '.' 60 0 5 1 = .error .sampleOutsideDisplay := by decide

/-! ## Witnesses: states and operands that meet the hypotheses of the statements in Certificates/Slice0/Obligations.lean -/

/-- A coordinator with two players, and a player id one past the last. -/
def outOfRange : State := { withCoord (at200 0x6005) 2 false with activePlayer := 3#4 }

theorem witness_DecodeOfEncode : moved.wellFormed = true ∧ (Instr.drw 0x1#4 0xF#4 0x5#4).wellFormed = true := by decide
theorem witness_EncodeOfDecode : defaultConfig.skipLowNibble = .strict
    ∧ decode defaultConfig 0xD1F5#16 = .instr (.drw 0x1#4 0xF#4 0x5#4) := by decide
/-- Layouts at the edges of the checks: a block just past 00EE with SHARED just past the block, and the last block of group 0
with SHARED just below it. -/
theorem witness_NoTwoTableRows : { defaultLayout with mpBase := 0x00F0, mpShared := 0x0100 }.wellFormed = true
    ∧ { defaultLayout with mpBase := 0x0FF0, mpShared := 0x0FEF }.wellFormed = true := by decide

/-- How many rows of a layout's table a word matches. -/
def rowsOf (l : Layout) (op : Word) : Nat := (tableRows l).countP (·.isRowOf op)

/-- Each check the statement rests on is needed: without it some word matches two rows. The block over 00E0 and 00EE. -/
theorem witness_rows_block_over_cls_ret : { defaultLayout with mpBase := 0x00E0 }.mpBlockAvoidsClsRet = false
    ∧ [0x00E0#16, 0x00EE#16].map (rowsOf { defaultLayout with mpBase := 0x00E0 }) = [2, 2] := by decide
/-- SHARED over 00E0, and over 00EE. -/
theorem witness_rows_shared_over_cls_ret : { defaultLayout with mpShared := 0x00E0 }.sharedAvoidsClsRet = false
    ∧ rowsOf { defaultLayout with mpShared := 0x00E0 } 0x00E0#16 = 2
    ∧ { defaultLayout with mpShared := 0x00EE }.sharedAvoidsClsRet = false
    ∧ rowsOf { defaultLayout with mpShared := 0x00EE } 0x00EE#16 = 2 := by decide
/-- SHARED at the first and the last word of the block. -/
theorem witness_rows_shared_in_block : { defaultLayout with mpShared := 0x0100 }.sharedOutsideMpBlock = false
    ∧ rowsOf { defaultLayout with mpShared := 0x0100 } 0x0100#16 = 2
    ∧ { defaultLayout with mpShared := 0x010F }.sharedOutsideMpBlock = false
    ∧ rowsOf { defaultLayout with mpShared := 0x010F } 0x010F#16 = 2 := by decide
/-- The block, or SHARED, in another group's space. -/
theorem witness_rows_outside_group0 : { defaultLayout with mpBase := 0x1000 }.mpBlockInGroup0 = false
    ∧ rowsOf { defaultLayout with mpBase := 0x1000 } 0x1000#16 = 2
    ∧ { defaultLayout with mpShared := 0x1110 }.sharedInGroup0 = false
    ∧ rowsOf { defaultLayout with mpShared := 0x1110 } 0x1110#16 = 2 := by decide
/-- Both clauses: a word of the last row, and a word of none. -/
theorem witness_DecodesExactly : defaultConfig.wellFormed = true ∧ defaultConfig.skipLowNibble = .strict
    ∧ (∃ row ∈ opcodeMap defaultLayout, 0xFF65#16 &&& row.1.mask = row.1.value)
    ∧ ∀ row ∈ opcodeMap defaultLayout, 0xFF66#16 &&& row.1.mask ≠ row.1.value :=
  ⟨by decide, rfl, by decide, by decide⟩
/-- Both clauses, at the lowest and the highest low nibble. -/
theorem witness_RegisterSkipLowNibble : ∀ op : Word, op = 0x5121#16 ∨ op = 0x512F#16 ∨ op = 0x9121#16 ∨ op = 0x912F#16 →
    op.extractLsb' 0 4 ≠ 0#4 ∧ (op.extractLsb' 12 4 = 0x5#4 ∨ op.extractLsb' 12 4 = 0x9#4) := by
  rintro op (rfl | rfl | rfl | rfl) <;> decide

/-- A state about to store V[0] and V[1] over the top of memory. -/
def storing : State := { withRegs (at200 0xF155) [(0x0#4, 0xAA#8), (0x1#4, 0xBB#8)] with index := 0xFFF#16 }

theorem witness_EveryStepKeeps : Inv storing ∧ ∃ t, step storing = .next t :=
  ⟨⟨by decide, by decide, by decide, by decide, by decide, fun _ _ _ _ => .inl rfl, by decide, by decide, by decide⟩, _, rfl⟩
theorem witness_StepRuns : storing.script = [] ∧ PassesGates storing ∧ storing.waitingForKey = false
    ∧ decode storing.cfg
        (storing.readByte storing.pc ++ storing.readByte (BitVec.ofNat 16 ((storing.pc.toNat + 1) % 4096)))
      = .instr (.storeRegs 0x1#4)
    ∧ ∃ u, exec (.storeRegs 0x1#4) { storing with
        syncBarrier := false, keyState := storing.sourceKeys, pc := BitVec.ofNat 16 ((storing.pc.toNat + 2) % 4096) }
      = .next u :=
  ⟨rfl, ⟨rfl, by decide, by decide⟩, rfl, by decide, _, rfl⟩
theorem witness_UnmatchedWord : ∀ m : SkipLowNibble, ∃ s : State, s.cfg.skipLowNibble = m ∧ s.script = [] ∧ PassesGates s
    ∧ s.waitingForKey = false ∧ (∀ r ∈ tableRows s.cfg.layout, s.fetchOpcode &&& r.mask ≠ r.value)
    ∧ s.fetchOpcode.extractLsb' 12 4 ≠ 0x5#4 ∧ s.fetchOpcode.extractLsb' 12 4 ≠ 0x9#4 := fun m =>
  ⟨{ at200 0x8128 with cfg := { defaultConfig with skipLowNibble := m } }, rfl, rfl,
    by cases m <;> exact ⟨rfl, by decide, by decide⟩, rfl, by cases m <;> decide, by cases m <;> decide,
    by cases m <;> decide⟩
/-- Both clauses: nothing pending, and a tick pending. -/
theorem witness_StepPerforms : State.reset.script = []
    ∧ ∃ s t : State, s.script = HostOp.tick :: [.ackDraw] ∧ step s = .next t :=
  ⟨rfl, { State.reset with script := [.tick, .ackDraw] }, _, rfl, rfl⟩
theorem witness_HaltedMachine : ∃ s : State, s.halted = true ∧ s.script = [] :=
  ⟨{ State.reset with halted := true }, rfl, rfl⟩
/-- The three clauses of the barrier gate. -/
theorem witness_BarrierGate : ∀ coord complete : Bool, ∃ s : State, s.halted = false ∧ s.syncBarrier = true
    ∧ s.cfg.coordPresent = coord ∧ s.inputs.barrierComplete = complete := fun coord complete =>
  ⟨{ State.reset with
      syncBarrier := true, cfg := { defaultConfig with coordPresent := coord },
      inputs := { Inputs.idle with barrierComplete := complete } }, rfl, rfl, rfl, rfl⟩
theorem witness_OutOfRangePlayer : outOfRange.halted = false ∧ BarrierOpen outOfRange
    ∧ outOfRange.cfg.coordPresent = true ∧ outOfRange.activePlayer ≠ 0#4
    ∧ ¬ (1 ≤ outOfRange.activePlayer.toNat ∧ outOfRange.activePlayer.toNat ≤ outOfRange.inputs.playerCount) :=
  ⟨rfl, by decide, rfl, by decide, by decide⟩
/-- Both sides of the equivalence, at the first id out of range, and an id at the range's end with no fault. -/
theorem witness_StepFaultsOnly : (∃ f, step outOfRange = .fault f) ∧ StepSamples outOfRange outOfRange.inputs
    ∧ ∃ t, step { outOfRange with activePlayer := 2#4 } = .next t := ⟨⟨_, rfl⟩, .inl ⟨rfl, rfl⟩, _, rfl⟩
/-- Both clauses: a coordinator's last player, and no coordinator. -/
theorem witness_CycleRefreshes : ∀ coord : Bool, ∃ s t : State, s.halted = false ∧ BarrierOpen s
    ∧ cycle s = .next t ∧ s.cfg.coordPresent = coord := fun coord => by
  cases coord
  · exact ⟨at200 0x6005, _, rfl, by decide, rfl, rfl⟩
  · exact ⟨{ withCoord (at200 0x6005) 2 false with activePlayer := 2#4 }, _, rfl, by decide, rfl, rfl⟩
/-- Both clauses of the press phase: the highest key, alone; and no key. -/
theorem witness_KeyWaitPress : PassesGates (withKeys (waiting .press 0#4) 0 [15])
    ∧ (waiting .press 0#4).waitingForKey = true ∧ (waiting .press 0#4).waitingPhase = .press
    ∧ keyAt (withKeys (waiting .press 0#4) 0 [15]).sourceKeys 0xF#4 = true
    ∧ (∀ j : BitVec 4, j < 0xF#4 → keyAt (withKeys (waiting .press 0#4) 0 [15]).sourceKeys j = false)
    ∧ ∀ k : BitVec 4, keyAt (waiting .press 0#4).sourceKeys k = false :=
  ⟨⟨rfl, by decide, by decide⟩, rfl, rfl, by decide, by decide, by decide⟩
/-- Both clauses of the release phase: the tracked key held, and released. -/
theorem witness_KeyWaitRelease : PassesGates (withKeys (waiting .release 0xF#4) 0 [15])
    ∧ (waiting .release 0xF#4).waitingForKey = true ∧ (waiting .release 0xF#4).waitingPhase = .release
    ∧ keyAt (withKeys (waiting .release 0xF#4) 0 [15]).sourceKeys 0xF#4 = true
    ∧ keyAt (withKeys (waiting .release 0xF#4) 0 [14]).sourceKeys 0xF#4 = false :=
  ⟨⟨rfl, by decide, by decide⟩, rfl, rfl, by decide, by decide⟩
/-- The tracked key 3 held through two cycles, while 5 comes and goes. -/
theorem witness_HeldTrackedKey : ∃ (inps : List Inputs) (s : State), inps.length = 2 ∧ s.halted = false
    ∧ s.syncBarrier = false ∧ s.waitingForKey = true ∧ s.waitingPhase = .release ∧ s.script = inps.map .cycle
    ∧ ∀ inp ∈ inps, PlayerInRange { s with inputs := inp }
      ∧ keyAt (State.sourceKeys { s with inputs := inp }) s.waitingTrackedKey = true := by
  refine ⟨[(withKeys State.reset 0 [3, 5]).inputs, (withKeys State.reset 0 [3]).inputs],
    { waiting .release 3#4 with
      script := [.cycle (withKeys State.reset 0 [3, 5]).inputs, .cycle (withKeys State.reset 0 [3]).inputs] },
    rfl, rfl, rfl, rfl, rfl, rfl, ?_⟩
  intro inp h
  rcases List.mem_cons.mp h with rfl | h
  · exact ⟨by decide, by decide⟩
  · rcases List.mem_singleton.mp h with rfl
    exact ⟨by decide, by decide⟩
/-- The shared source is in use: player 4's keys, the count and the answer all differ. -/
theorem witness_UnreadInputs : ∃ (s : State) (inp : Inputs) (t : State),
    inp.keys[s.sourcePlayer.toNat]'s.sourcePlayer.isLt = s.sourceKeys
    ∧ (s.syncBarrier = true → s.cfg.coordPresent = true → inp.barrierComplete = s.inputs.barrierComplete)
    ∧ (s.activePlayer ≠ 0#4 → s.cfg.coordPresent = true → inp.playerCount = s.inputs.playerCount)
    ∧ inp ≠ s.inputs ∧ cycle s = .next t :=
  ⟨withCoord (at200 0x6005) 2 false, { (withKeys (at200 0x6005) 4 [1]).inputs with playerCount := 3, barrierComplete := true },
    _, by decide, by decide, by decide, by decide, rfl⟩
/-- Both clauses of the tick: halted and gated, halted and not gated, running. -/
theorem witness_Tick : State.reset.halted = false
    ∧ ∀ gated : Bool, ∃ s : State, s.halted = true ∧ s.cfg.tickWhileHalted = !gated := ⟨rfl, fun gated =>
  ⟨{ State.reset with halted := true, cfg := { defaultConfig with tickWhileHalted := !gated } }, rfl, rfl⟩⟩
theorem witness_TooLongImage : 4096 - State.reset.cfg.layout.programOrigin < (List.replicate 3585 0#8).length := by
  rw [List.length_replicate]; decide
/-- The clauses of the reset: a given seed, none, and well-formed parameters. -/
theorem witness_ResetReplaces : moved.wellFormed = true ∧ moved.layout.fontData.length = 80
    ∧ (∃ n, some 7 = some n) ∧ (none : Option Nat) = none := ⟨by decide, by decide, ⟨7, rfl⟩, rfl⟩
theorem witness_LoadCopies : State.reset.cfg.wellFormed = true
    ∧ (List.replicate 3584 0x12#8).length ≤ 4096 - State.reset.cfg.layout.programOrigin :=
  ⟨by decide, by rw [List.length_replicate]; decide⟩
theorem witness_DrawFlag : ∃ s t : State, s.drawFlag = true ∧ cycle s = .next t :=
  ⟨{ at200 0x6005 with drawFlag := true }, _, rfl, rfl⟩

/-- The premise of the statements over all instructions, for one instruction of each kind they name. -/
theorem witness_OnlyTimerLoads : ∃ t, exec (.ldSTVx 0x1#4) (at200 0) = .next t := ⟨_, rfl⟩
theorem witness_OnlyRnd : ∃ t, exec (.rnd 0x1#4 0xFF#8) (at200 0) = .next t := ⟨_, rfl⟩
theorem witness_OnlyClearAndDraw : (∃ t, exec (.drw 0x1#4 0x2#4 0x5#4) (at200 0) = .next t)
    ∧ (∃ t, exec .cls (at200 0) = .next t)
    ∧ ∃ t, exec .ret (at200 0) = .next t ∧ Instr.ret ≠ .cls ∧ ∀ x y n, Instr.ret ≠ .drw x y n :=
  ⟨⟨_, rfl⟩, ⟨_, rfl⟩, _, rfl, by decide, fun _ _ _ => Instr.noConfusion⟩
theorem witness_OnlyStores : ∃ t, exec (.loadRegs 0xF#4) (at200 0) = .next t
    ∧ ∀ x, Instr.loadRegs 0xF#4 ≠ .ldB x ∧ Instr.loadRegs 0xF#4 ≠ .storeRegs x := ⟨_, rfl, by decide⟩
theorem witness_OnlyStackErrors : ∃ t : State, exec .ret (at200 0) = .next t ∧ (at200 0).halted = false
    ∧ t.halted = true := ⟨_, rfl, rfl, rfl⟩
theorem witness_OnlyStackErrors_call : ∃ t : State, exec (.call 0x300#12) { at200 0 with sp := 16 } = .next t
    ∧ t.halted = true := ⟨_, rfl, rfl⟩
theorem witness_OnlyListedVF : ∃ t : State, exec (.loadRegs VF) { at200 0 with index := 0x050#16 } = .next t
    ∧ t.reg VF ≠ (at200 0).reg VF := ⟨_, rfl, by decide⟩
theorem witness_OnlyListedIndex : ∃ t : State, exec (.storeRegs 0x0#4) (at200 0) = .next t
    ∧ t.index ≠ (at200 0).index := ⟨_, rfl, by decide⟩
/-- The clauses of the control state: the stack, the key wait, the barrier and the player. -/
theorem witness_OnlyListedControl : (∃ t : State, exec (.call 0x300#12) (at200 0) = .next t ∧ t.sp ≠ (at200 0).sp)
    ∧ (∃ t : State, exec .player15 (at200 0) = .next t ∧ t.activePlayer ≠ (at200 0).activePlayer)
    ∧ ∃ t : State, exec (.jp 0x300#12) (at200 0) = .next t ∧ (∀ x, Instr.jp 0x300#12 ≠ .ldVxK x)
      ∧ Instr.jp 0x300#12 ≠ .sync :=
  ⟨⟨_, rfl, by decide⟩, ⟨_, rfl, by decide⟩, _, rfl, by decide, by decide⟩
theorem witness_NoHostSide : ∃ t, exec .sync (withCoord (at200 0) 2 false) = .next t := ⟨_, rfl⟩
theorem witness_StoredOpcode : 1 ≤ (0x1#4 : Reg).toNat ∧ ∃ t, exec (.storeRegs 0x1#4) storing = .next t :=
  ⟨by decide, _, rfl⟩

/-- Both clauses of RET and of CALL at the ends of the stack. -/
theorem witness_RetAndCall : (∀ n : Fin 17, ({ State.reset with sp := n } : State).sp = n)
    ∧ 0 < (1 : Fin 17).val ∧ (0 : Fin 17).val = 0 ∧ (15 : Fin 17).val < 16 ∧ (16 : Fin 17).val = 16 :=
  ⟨fun _ => rfl, by decide, by decide, by decide, by decide⟩
/-- Both halting instructions. -/
theorem witness_HaltingCycle : (at200 0x00EE).script = [] ∧ PassesGates (at200 0x00EE)
    ∧ (at200 0x00EE).waitingForKey = false
    ∧ decode (at200 0x00EE).cfg (at200 0x00EE).fetchOpcode = .instr .ret ∧ (at200 0x00EE).sp.val = 0 :=
  ⟨rfl, ⟨rfl, by decide, by decide⟩, rfl, by decide, rfl⟩
theorem witness_HaltingCycle_call : ∃ s : State, s.script = [] ∧ PassesGates s ∧ s.waitingForKey = false
    ∧ decode s.cfg s.fetchOpcode = .instr (.call 0x300#12) ∧ s.sp.val = 16 :=
  ⟨{ at200 0x2300 with sp := 16 }, rfl, ⟨rfl, by decide, by decide⟩, rfl, by decide, rfl⟩
/-- Key 0xF pressed: the value 0x1F under mask names it, and under the other mode it is out of range. -/
theorem witness_KeySkips : ∀ m : KeyIndexMode, ∃ (s : State) (pressed : Bool), s.cfg.keyIndexMode = m
    ∧ s.reg 0x1#4 = 0x1F#8
    ∧ (s.cfg.keyIndexMode = .mask ∨ (s.reg 0x1#4).toNat ≤ 15 →
      pressed = s.keyState[(s.reg 0x1#4).toNat % 16]'(Nat.mod_lt _ (by decide)))
    ∧ (s.cfg.keyIndexMode = .oorReleased ∧ 15 < (s.reg 0x1#4).toNat → pressed = false) := fun m => by
  refine ⟨{ withRegs State.reset [(0x1#4, 0x1F#8)] with
    keyState := keysOf [15], cfg := { defaultConfig with keyIndexMode := m } }, m == .mask, rfl, ?_, ?_, ?_⟩ <;>
    cases m <;> decide
theorem witness_AddAndSubtract : ∃ (s : State) (a b : Nat), a = (s.reg 0x1#4).toNat ∧ b = (s.reg VF).toNat ∧ a = 255
    ∧ b = 255 :=
  ⟨withRegs State.reset [(0x1#4, 0xFF#8), (VF, 0xFF#8)], _, _, rfl, rfl, by decide, by decide⟩
theorem witness_ShiftsReadTheSecondOperand : ∃ (s : State) (b : Nat), b = (s.reg 0x2#4).toNat ∧ b = 129 :=
  ⟨withRegs State.reset [(0x2#4, 0x81#8)], _, rfl, by decide⟩
theorem witness_DecimalDigits : ∃ (s : State) (b : Nat), b = (s.reg 0x0#4).toNat ∧ b = 255 ∧ s.index = 0xFFF#16 :=
  ⟨{ withRegs State.reset [(0x0#4, 0xFF#8)] with index := 0xFFF#16 }, _, rfl, by decide, rfl⟩
/-- Both output maps. -/
theorem witness_RndResult : ∀ m : PrngMap, ∃ (s : State) (r : Nat), s.cfg.prngMap = m
    ∧ r = (s.cfg.prngMul * s.rng + s.cfg.prngInc) % 2 ^ s.cfg.prngWidth := fun m =>
  ⟨{ State.reset with cfg := { defaultConfig with prngMap := m } }, _, rfl, rfl⟩
theorem witness_DrwResult : ∃ x0 y0 : Nat, x0 = ((withRegs State.reset [(0x1#4, 0x7F#8)]).reg 0x1#4).toNat % 64
    ∧ y0 = ((withRegs State.reset [(0x1#4, 0x7F#8)]).reg 0x1#4).toNat % 32 ∧ x0 = 63 ∧ y0 = 31 :=
  ⟨_, _, rfl, rfl, by decide, by decide⟩
/-- The glyph "0" at (63, 31), drawn twice. -/
theorem witness_DrawingTwice : ∃ s t u : State, (s.reg 0x1#4).toNat % 64 = 63
    ∧ (t.reg 0x1#4).toNat % 64 = (s.reg 0x1#4).toNat % 64 ∧ (t.reg 0x1#4).toNat % 32 = (s.reg 0x1#4).toNat % 32
    ∧ exec (.drw 0x1#4 0x1#4 0x5#4) s = .next t ∧ exec (.drw 0x1#4 0x1#4 0x5#4) t = .next u :=
  ⟨{ withRegs State.reset [(0x1#4, 0x3F#8)] with index := 0x050#16 }, _, _, by decide, by decide, by decide, rfl, rfl⟩
theorem witness_PlayerAndShared : (Instr.player15, 15) ∈
    [(Instr.player1, 1), (.player2, 2), (.player3, 3), (.player4, 4), (.player5, 5), (.player6, 6), (.player7, 7),
      (.player8, 8), (.player9, 9), (.player10, 10), (.player11, 11), (.player12, 12), (.player13, 13), (.player14, 14),
      (.player15, 15), (.shared, 0)] := by decide

end Sys2Proof.Tests
end

section
/-! PROOFS for the state family (spec/10_state.md). First the one case analysis over `exec`: what each instruction may
write. Every rule over all instructions below, and the invariant of every step, go through it. -/

namespace Sys2Proof.Machine

/-! ## What an instruction may write -/

/-- The instructions that write a flag to VF beside their result (10_state.md R22). -/
def flaggingInstrs (x y : Reg) : List Instr :=
  [.orReg x y, .andReg x y, .xorReg x y, .addReg x y, .subReg x y, .subnReg x y, .shrReg x y, .shlReg x y]

/-- The skip family (42_skip.md). -/
def skipInstrs (x y : Reg) (kk : Byte) : List Instr :=
  [.seImm x kk, .sneImm x kk, .seReg x y, .sneReg x y, .skp x, .sknp x]

/-- The instructions that select the key source (46_multiplayer.md R211, R212). -/
def selectInstrs : List Instr :=
  [.player1, .player2, .player3, .player4, .player5, .player6, .player7, .player8, .player9, .player10, .player11,
    .player12, .player13, .player14, .player15, .shared]

/-- `InstrFrame s i t`: the instruction `i` may take the post-fetch state `s` to `t`. Each constructor gathers the
instructions that replace the same fields, and keeps what the claims need to know of the new values. -/
inductive InstrFrame (s : State) : Instr → State → Prop
  | clear : InstrFrame s .cls { s with display := [], drawFlag := true, events := s.events ++ [.surfaceClear] }
  | draw (x y : Reg) (n : BitVec 4) (d : List Host.Cell) (v : Vector Byte 16)
      (hwf : Display.wf s.display → Display.wf d)
      (hpix : ∀ col row : Nat, col < 64 → row < 32 →
        pixelOf d col row = pixelOf s.display col row ∨ pixelOf d col row = pixelOf s.display col row ^^^ 1#8) :
      InstrFrame s (.drw x y n)
        { s with display := d, drawFlag := true, v := v, events := s.events ++ [.surfaceUpdate d] }
  | pop (sp : Fin 17) (a : Word) (ha : a.toNat < 4096) : InstrFrame s .ret { s with sp := sp, pc := a }
  | push (nnn : Addr) (h : s.sp.val < 16) (sp : Fin 17) (a : Word) (ha : a.toNat < 4096) :
      InstrFrame s (.call nnn) { s with stack := s.stack.set s.sp.val s.pc h, sp := sp, pc := a }
  | stackError {i : Instr} (hi : i = .ret ∨ ∃ nnn, i = .call nnn) : InstrFrame s i { s with halted := true }
  | jump {i : Instr} (nnn : Addr) (a : Word) (ha : a.toNat < 4096) (hi : i ∈ [.jp nnn, .jpV0 nnn]) :
      InstrFrame s i { s with pc := a }
  | skip {i : Instr} (x y : Reg) (kk : Byte) (c : Bool) (hi : i ∈ skipInstrs x y kk) :
      InstrFrame s i { s with pc := (s.skipIf c).pc }
  | namedReg {i : Instr} (x y : Reg) (kk b : Byte) (hi : i ∈ [.ldImm x kk, .addImm x kk, .ldReg x y, .ldVxDT x]) :
      InstrFrame s i (s.setReg x b)
  | flagged {i : Instr} (x y : Reg) (v : Vector Byte 16) (hi : i ∈ flaggingInstrs x y) :
      InstrFrame s i { s with v := v }
  | random (x : Reg) (kk b : Byte) : InstrFrame s (.rnd x kk) (State.setReg { s with rng := prngStep s.cfg s.rng } x b)
  | index {i : Instr} (nnn : Addr) (x : Reg) (a : Word) (ha : a.toNat < 4096) (hi : i ∈ [.ldI nnn, .addI x, .ldF x]) :
      InstrFrame s i { s with index := a }
  | decimals (x : Reg) (m : List Host.Cell) (hwf : Memory.wf s.cfg.layout s.mem → Memory.wf s.cfg.layout m) :
      InstrFrame s (.ldB x) { s with mem := m }
  | storeBlock (x : Reg) (m : List Host.Cell) (a : Word) (ha : a.toNat < 4096)
      (hwf : Memory.wf s.cfg.layout s.mem → Memory.wf s.cfg.layout m) :
      InstrFrame s (.storeRegs x) { s with mem := m, index := a }
  | loadBlock (x : Reg) (v : Vector Byte 16) (a : Word) (ha : a.toNat < 4096)
      (hv : x ≠ VF → State.reg { s with v := v } VF = s.reg VF) :
      InstrFrame s (.loadRegs x) { s with v := v, index := a }
  | armKeyWait (x : Reg) : InstrFrame s (.ldVxK x)
      { s with waitingForKey := true, waitingPhase := .press, waitingTargetRegister := x }
  | delayTimer (x : Reg) : InstrFrame s (.ldDTVx x) { s with delayTimer := s.reg x }
  | soundTimer (x : Reg) (es : List Event) :
      InstrFrame s (.ldSTVx x) { s with soundTimer := s.reg x, events := s.events ++ es }
  | sync (es : List Event) : InstrFrame s .sync { s with syncBarrier := true, events := s.events ++ es }
  | select {i : Instr} (p : BitVec 4) (hi : i ∈ selectInstrs) : InstrFrame s i { s with activePlayer := p }

variable {s : State}

theorem InstrFrame.of_write8 {i : Instr} (x y : Reg) (r : Byte) (f : Bool) (hi : i ∈ flaggingInstrs x y) :
    InstrFrame s i (s.write8 x r f) := by
  rw [State.write8_eq]
  exact .flagged x y _ hi

theorem InstrFrame.of_skipIf {i : Instr} (x y : Reg) (kk : Byte) (c : Bool) (hi : i ∈ skipInstrs x y kk) :
    InstrFrame s i (s.skipIf c) := by
  rw [State.skipIf_eq]
  exact .skip x y kk c hi

theorem exec_ret_within_frame : ∃ t, exec .ret s = .next t ∧ InstrFrame s .ret t := by
  by_cases h : 0 < s.sp.val
  · exact ⟨_, dif_pos h, .pop _ _ (wrap12_lt _)⟩
  · exact ⟨_, dif_neg h, .stackError (.inl rfl)⟩

theorem exec_call_within_frame (nnn : Addr) : ∃ t, exec (.call nnn) s = .next t ∧ InstrFrame s (.call nnn) t := by
  by_cases h : s.sp.val < 16
  · exact ⟨_, dif_pos h, .push nnn h _ _ (by simp; omega)⟩
  · exact ⟨_, dif_neg h, .stackError (.inr ⟨nnn, rfl⟩)⟩

theorem exec_sync_within_frame : ∃ t, exec .sync s = .next t ∧ InstrFrame s .sync t := by
  by_cases h : s.cfg.coordPresent = true
  · exact ⟨_, if_pos h, .sync [.notifyArrival]⟩
  · exact ⟨{ s with syncBarrier := true }, if_neg h, by simpa using InstrFrame.sync (s := s) []⟩

theorem exec_ldSTVx_within_frame (x : Reg) : ∃ t, exec (.ldSTVx x) s = .next t ∧ InstrFrame s (.ldSTVx x) t := by
  by_cases h : s.reg x = 0#8
  · exact ⟨{ s with soundTimer := s.reg x }, if_pos h, by simpa using InstrFrame.soundTimer (s := s) x []⟩
  · exact ⟨_, if_neg h, .soundTimer x [.toneStart]⟩

theorem exec_drw_within_frame (x y : Reg) (n : BitVec 4) :
    ∃ t, exec (.drw x y n) s = .next t ∧ InstrFrame s (.drw x y n) t := by
  refine ⟨_, rfl, .draw x y n _ _ (fun h => drawSprite_wf h _ _ _ _) fun col row hc hr => ?_⟩
  obtain ⟨hset, hkeep⟩ := (drawSprite_spec s.display (drawColumn (s.reg x)) (drawRowOf (s.reg y)) s.spriteByte
    n.toNat).1 col row hc hr
  by_cases h : spriteCovers s.spriteByte (drawColumn (s.reg x)) (drawRowOf (s.reg y)) n.toNat col row
  · exact .inr (hset h)
  · exact .inl (hkeep h)

theorem exec_ldB_within_frame (x : Reg) : ∃ t, exec (.ldB x) s = .next t ∧ InstrFrame s (.ldB x) t :=
  ⟨_, rfl, .decimals x _ fun h =>
    State.writeByte_wf _ _ _ (State.writeByte_wf _ _ _ (State.writeByte_wf s _ _ h))⟩

theorem exec_storeRegs_within_frame (x : Reg) :
    ∃ t, exec (.storeRegs x) s = .next t ∧ InstrFrame s (.storeRegs x) t := by
  refine ⟨_, rfl, ?_⟩
  rw [State.storeBlock_eq]
  refine .storeBlock x _ _ ?_ (s.storeBlock_wf _)
  rw [s.storeBlock_index _ (by omega)]
  omega

theorem exec_loadRegs_within_frame (x : Reg) :
    ∃ t, exec (.loadRegs x) s = .next t ∧ InstrFrame s (.loadRegs x) t := by
  refine ⟨_, rfl, ?_⟩
  rw [State.loadBlock_eq]
  refine .loadBlock x _ _ ?_ fun hx => ?_
  · rw [s.loadBlock_index _ (by omega)]
    omega
  · have hx15 : x.toNat ≠ 15 := fun e => hx (BitVec.eq_of_toNat_eq e)
    have hVF : VF.toNat = 15 := rfl
    have hreg := s.loadBlock_reg (x.toNat + 1) (by omega) VF
    rw [if_neg (by omega)] at hreg
    exact hreg

/-- The one case analysis over the instructions: each completes, within its frame. -/
theorem exec_within_frame : ∀ i : Instr, ∃ t, exec i s = .next t ∧ InstrFrame s i t
  | .cls => ⟨_, rfl, .clear⟩
  | .ret => exec_ret_within_frame
  | .sync => exec_sync_within_frame
  | .player1 => ⟨_, rfl, .select 1#4 (by simp [selectInstrs])⟩
  | .player2 => ⟨_, rfl, .select 2#4 (by simp [selectInstrs])⟩
  | .player3 => ⟨_, rfl, .select 3#4 (by simp [selectInstrs])⟩
  | .player4 => ⟨_, rfl, .select 4#4 (by simp [selectInstrs])⟩
  | .player5 => ⟨_, rfl, .select 5#4 (by simp [selectInstrs])⟩
  | .player6 => ⟨_, rfl, .select 6#4 (by simp [selectInstrs])⟩
  | .player7 => ⟨_, rfl, .select 7#4 (by simp [selectInstrs])⟩
  | .player8 => ⟨_, rfl, .select 8#4 (by simp [selectInstrs])⟩
  | .player9 => ⟨_, rfl, .select 9#4 (by simp [selectInstrs])⟩
  | .player10 => ⟨_, rfl, .select 10#4 (by simp [selectInstrs])⟩
  | .player11 => ⟨_, rfl, .select 11#4 (by simp [selectInstrs])⟩
  | .player12 => ⟨_, rfl, .select 12#4 (by simp [selectInstrs])⟩
  | .player13 => ⟨_, rfl, .select 13#4 (by simp [selectInstrs])⟩
  | .player14 => ⟨_, rfl, .select 14#4 (by simp [selectInstrs])⟩
  | .player15 => ⟨_, rfl, .select 15#4 (by simp [selectInstrs])⟩
  | .shared => ⟨_, rfl, .select 0#4 (by simp [selectInstrs])⟩
  | .jp nnn => ⟨_, rfl, .jump nnn _ (by simp; omega) (by simp)⟩
  | .call nnn => exec_call_within_frame nnn
  | .seImm x kk => ⟨_, rfl, .of_skipIf x 0#4 kk _ (by simp [skipInstrs])⟩
  | .sneImm x kk => ⟨_, rfl, .of_skipIf x 0#4 kk _ (by simp [skipInstrs])⟩
  | .seReg x y => ⟨_, rfl, .of_skipIf x y 0#8 _ (by simp [skipInstrs])⟩
  | .ldImm x kk => ⟨_, rfl, .namedReg x 0#4 kk _ (by simp)⟩
  | .addImm x kk => ⟨_, rfl, .namedReg x 0#4 kk _ (by simp)⟩
  | .ldReg x y => ⟨_, rfl, .namedReg x y 0#8 _ (by simp)⟩
  | .orReg x y => ⟨_, rfl, .flagged x y _ (by simp [flaggingInstrs])⟩
  | .andReg x y => ⟨_, rfl, .flagged x y _ (by simp [flaggingInstrs])⟩
  | .xorReg x y => ⟨_, rfl, .flagged x y _ (by simp [flaggingInstrs])⟩
  | .addReg x y => ⟨_, rfl, .of_write8 x y _ _ (by simp [flaggingInstrs])⟩
  | .subReg x y => ⟨_, rfl, .of_write8 x y _ _ (by simp [flaggingInstrs])⟩
  | .shrReg x y => ⟨_, rfl, .of_write8 x y _ _ (by simp [flaggingInstrs])⟩
  | .subnReg x y => ⟨_, rfl, .of_write8 x y _ _ (by simp [flaggingInstrs])⟩
  | .shlReg x y => ⟨_, rfl, .of_write8 x y _ _ (by simp [flaggingInstrs])⟩
  | .sneReg x y => ⟨_, rfl, .of_skipIf x y 0#8 _ (by simp [skipInstrs])⟩
  | .ldI nnn => ⟨_, rfl, .index nnn 0#4 _ (by simp; omega) (by simp)⟩
  | .jpV0 nnn => ⟨_, rfl, .jump nnn _ (add12_lt _ _) (by simp)⟩
  | .rnd x kk => ⟨_, rfl, .random x kk _⟩
  | .drw x y n => exec_drw_within_frame x y n
  | .skp x => ⟨_, rfl, .of_skipIf x 0#4 0#8 _ (by simp [skipInstrs])⟩
  | .sknp x => ⟨_, rfl, .of_skipIf x 0#4 0#8 _ (by simp [skipInstrs])⟩
  | .ldVxDT x => ⟨_, rfl, .namedReg x 0#4 0#8 _ (by simp)⟩
  | .ldVxK x => ⟨_, rfl, .armKeyWait x⟩
  | .ldDTVx x => ⟨_, rfl, .delayTimer x⟩
  | .ldSTVx x => exec_ldSTVx_within_frame x
  | .addI x => ⟨_, rfl, .index 0#12 x _ (add12_lt _ _) (by simp)⟩
  | .ldF x => ⟨_, rfl, .index 0#12 x _ (wrap12_lt _) (by simp)⟩
  | .ldB x => exec_ldB_within_frame x
  | .storeRegs x => exec_storeRegs_within_frame x
  | .loadRegs x => exec_loadRegs_within_frame x

/-- Inversion of `exec`: what a completed instruction can have done. -/
theorem exec_frame {i : Instr} {s t : State} (h : exec i s = .next t) : InstrFrame s i t := by
  obtain ⟨u, hu, hf⟩ := exec_within_frame i
  obtain rfl : u = t := Host.Outcome.next.inj (hu.symm.trans h)
  exact hf

end Sys2Proof.Machine
end

section
/-! PROOFS. The rules of 10_state.md over all instructions, and what a cycle and a host operation can reach. -/

namespace Sys2Proof.Machine

/-! ## Rules over all instructions (10_state.md R22 to R35) -/

/-- Settles O27: only the frames of FX15 and FX18 have a timer in them. -/
theorem onlyTimerLoadsWriteTimers : Obligations.OnlyTimerLoadsWriteTimers := by
  intro i s t h
  cases exec_frame h with
  | delayTimer x => exact ⟨.inr ⟨x, rfl, rfl⟩, .inl rfl⟩
  | soundTimer x es => exact ⟨.inl rfl, .inr ⟨x, rfl, rfl⟩⟩
  | _ => exact ⟨.inl rfl, .inl rfl⟩

/-- Settles O29: only the frames of 00E0 and DXYN have the display in them, and both set the draw flag. -/
theorem onlyClearAndDrawWriteTheDisplay : Obligations.OnlyClearAndDrawWriteTheDisplay := by
  intro i s t h
  refine ⟨?_, fun hcls hdrw => ?_⟩
  · rintro (rfl | ⟨x, y, n, rfl⟩)
    · cases h; rfl
    · cases h; rfl
  · cases exec_frame h with
    | clear => exact absurd rfl hcls
    | draw x y n => exact absurd rfl (hdrw x y n)
    | _ => exact ⟨rfl, rfl⟩

/-- Settles O33: only the frames of the five have `I` in them. -/
theorem onlyListedInstructionsWriteTheIndex : Obligations.OnlyListedInstructionsWriteTheIndex := by
  intro i s t h hne
  cases exec_frame h with
  | index nnn x a ha hi =>
    simp only [List.mem_cons, List.not_mem_nil, or_false] at hi
    rcases hi with rfl | rfl | rfl <;> simp
  | storeBlock x => simp
  | loadBlock x => simp
  | _ => exact absurd rfl hne

/-- A write that changes VF names VF. -/
theorem eq_VF_of_setReg_changes {s : State} {x : Reg} {b : Byte} (h : (s.setReg x b).reg VF ≠ s.reg VF) : x = VF := by
  by_contra hx
  exact h (by rw [State.reg_setReg, if_neg (Ne.symm hx)])

/-- Settles O32: a frame with registers in it is one that flags, or VF is its named destination, or it is the block
load that reaches VF. -/
theorem onlyListedInstructionsWriteVF : Obligations.OnlyListedInstructionsWriteVF := by
  intro i s t h hne
  cases exec_frame h with
  | flagged x y v hi => exact .inl ⟨x, y, by simpa [flaggingInstrs] using hi⟩
  | draw x y n => exact .inr (.inl ⟨x, y, n, rfl⟩)
  | namedReg x y kk b hi =>
    obtain rfl := eq_VF_of_setReg_changes hne
    simp only [List.mem_cons, List.not_mem_nil, or_false] at hi
    rcases hi with rfl | rfl | rfl | rfl <;> simp
  | random x kk b =>
    obtain rfl := eq_VF_of_setReg_changes (s := { s with rng := prngStep s.cfg s.rng }) hne
    simp
  | loadBlock x v a ha hv =>
    obtain rfl : x = VF := by
      by_contra hx
      exact hne (hv hx)
    simp
  | _ => exact absurd rfl hne

section ControlState

variable {i : Instr} {s t : State} (h : exec i s = .next t)
include h

theorem exec_writes_stack (hne : t.sp ≠ s.sp ∨ t.stack ≠ s.stack) : i = .ret ∨ ∃ nnn, i = .call nnn := by
  cases exec_frame h with
  | pop => exact .inl rfl
  | push nnn => exact .inr ⟨nnn, rfl⟩
  | _ => exact hne.elim (absurd rfl) (absurd rfl)

theorem exec_keeps_keyWait (hi : ∀ x, i ≠ .ldVxK x) :
    t.waitingForKey = s.waitingForKey ∧ t.waitingPhase = s.waitingPhase
      ∧ t.waitingTargetRegister = s.waitingTargetRegister := by
  cases exec_frame h with
  | armKeyWait x => exact absurd rfl (hi x)
  | _ => exact ⟨rfl, rfl, rfl⟩

theorem exec_keeps_trackedKey : t.waitingTrackedKey = s.waitingTrackedKey := by
  cases exec_frame h <;> rfl

theorem exec_keeps_barrier (hi : i ≠ .sync) : t.syncBarrier = s.syncBarrier := by
  cases exec_frame h with
  | sync => exact absurd rfl hi
  | _ => rfl

theorem exec_writes_player (hne : t.activePlayer ≠ s.activePlayer) : i ∈ selectInstrs := by
  cases exec_frame h with
  | select p hi => exact hi
  | _ => exact absurd rfl hne

end ControlState

/-- Settles O34: each clause by the frames that have its fields in them. -/
theorem onlyListedInstructionsWriteControlState : Obligations.OnlyListedInstructionsWriteControlState :=
  fun _ _ _ h => ⟨exec_writes_stack h, exec_keeps_keyWait h, exec_keeps_trackedKey h, exec_keeps_barrier h,
    exec_writes_player h⟩

/-- Settles O35: no frame has one of these fields in it, and four append an event. -/
theorem noInstructionWritesTheHostSide : Obligations.NoInstructionWritesTheHostSide := by
  intro i s t h
  cases exec_frame h with
  | clear | draw | soundTimer | sync => exact ⟨rfl, rfl, rfl, rfl, rfl, rfl, _, rfl⟩
  | _ => exact ⟨rfl, rfl, rfl, rfl, rfl, rfl, [], (List.append_nil _).symm⟩

/-! ## What a cycle can do -/

/-- The states a cycle can reach: it is held at a gate, runs the key wait, passes a no-op or runs an instruction. -/
inductive CycleReaches (s : State) : State → Prop
  | held (r : Status) : CycleReaches s (s.report r)
  | waited (r : Status) : CycleReaches s (s.openGates.keyWaitStep.report r)
  | passed (r : Status) (hw : s.waitingForKey = false) : CycleReaches s (s.openGates.advancePc.report r)
  | ran {i : Instr} {u : State} (r : Status) (hw : s.waitingForKey = false)
      (hu : exec i s.openGates.advancePc = .next u) : CycleReaches s (u.report r)

theorem fetchExecute_reaches {s t : State} (hw : s.waitingForKey = false) (h : fetchExecute s.openGates = .next t) :
    CycleReaches s t := by
  obtain ⟨u, hu, hfe⟩ := fetchExecute_completes s.openGates
  obtain rfl := Host.Outcome.next.inj (hfe.symm.trans h)
  cases hd : decode s.openGates.cfg s.openGates.fetchOpcode with
  | instr i =>
    rw [hd] at hu
    exact .ran u.executedStatus hw hu
  | nop why =>
    rw [hd] at hu
    obtain rfl := Host.Outcome.next.inj hu
    exact .passed _ hw

theorem cycle_reaches {s t : State} (h : cycle s = .next t) : CycleReaches s t := by
  rcases cycle_cases s with ⟨-, hc⟩ | ⟨-, -, hc⟩ | ⟨-, -, -, hc⟩ | ⟨-, -, -, -, hc⟩ | ⟨-, -, -, hw, hc⟩
  · obtain rfl := Host.Outcome.next.inj (hc.symm.trans h)
    exact .held .halted
  · obtain rfl := Host.Outcome.next.inj (hc.symm.trans h)
    exact .held .blockedBarrier
  · cases hc.symm.trans h
  · obtain rfl := Host.Outcome.next.inj (hc.symm.trans h)
    exact .waited .blockedKey
  · exact fetchExecute_reaches hw (hc.symm.trans h)

theorem exec_keeps_drawFlag_set {i : Instr} {s t : State} (h : exec i s = .next t) (hs : s.drawFlag = true) :
    t.drawFlag = true := by
  cases exec_frame h with
  | clear | draw => rfl
  | _ => exact hs

theorem State.keyWaitStep_drawFlag (s : State) : s.keyWaitStep.drawFlag = s.drawFlag := by rw [s.keyWaitStep_eq]

theorem State.keyWaitStep_script (s : State) : s.keyWaitStep.script = s.script := by rw [s.keyWaitStep_eq]

/-- Settles O26: the key wait leaves the flag and an instruction sets it or leaves it. -/
theorem drawFlagIsClearedByTheHost : Obligations.DrawFlagIsClearedByTheHost := by
  refine ⟨fun s t hs h => ?_, fun _ => rfl⟩
  cases cycle_reaches h with
  | held r => exact hs
  | waited r => exact s.openGates.keyWaitStep_drawFlag.trans hs
  | passed r hw => exact hs
  | ran r hw hu =>
    have hset := exec_keeps_drawFlag_set hu hs
    exact hset

theorem cycle_keeps_script {s t : State} (h : cycle s = .next t) : t.script = s.script := by
  cases cycle_reaches h with
  | held r => rfl
  | waited r => exact s.openGates.keyWaitStep_script
  | passed r hw => rfl
  | ran r hw hu =>
    obtain ⟨-, -, -, hscript, -⟩ := noInstructionWritesTheHostSide _ _ _ hu
    exact hscript

theorem loadOp_script (image : List Byte) (seed : Option Nat) (s : State) :
    (loadOp image seed s).script = s.script := by
  unfold loadOp
  split
  · rw [State.copyBytes_eq, resetOp_eq]
  · rfl

theorem perform_keeps_script {op : HostOp} {s t : State} (h : perform op s = .next t) : t.script = s.script := by
  cases op with
  | cycle inp => exact cycle_keeps_script (s := { s with inputs := inp }) h
  | tick => cases h; rw [tick_eq]
  | reset seed => cases h; rw [resetOp_eq]
  | load image seed => cases h; exact loadOp_script image seed s
  | ackDraw => cases h; rfl

/-- Settles O12: an operation leaves the list it is performed on. -/
theorem stepPerformsTheNextHostOperation : Obligations.StepPerformsTheNextHostOperation :=
  fun _ _ _ => ⟨step_of_nil, fun h =>
    ⟨step_of_cons h, fun _ ht => perform_keeps_script ((step_of_cons h).symm.trans ht)⟩⟩

end Sys2Proof.Machine
end

section
/-! PROOFS. The state invariants of 10_state.md R36: one rule for each operation, then every step. -/

namespace Sys2Proof

open Machine

/-! ## The invariants of 10_state.md R36 -/

section Invariant

variable {s t : State}

theorem Inv.report (h : Inv s) (r : Status) : Inv (s.report r) := { h with }

theorem Inv.setPc (h : Inv s) {a : Word} (ha : a.toNat < 4096) : Inv (s.setPc a) := { h with pc_lt := ha }

theorem Inv.advancePc (h : Inv s) : Inv s.advancePc := h.setPc (add12_lt _ _)

theorem Inv.withInputs (h : Inv s) (inp : Inputs) : Inv { s with inputs := inp } := { h with }

theorem Inv.withScript (h : Inv s) (ops : List HostOp) : Inv { s with script := ops } := { h with }

theorem Inv.openGates (h : Inv s) : Inv s.openGates := { h with blocking := fun hb => Bool.false_ne_true hb.1 }

/-- The key wait runs on a cleared barrier. -/
theorem Inv.keyWaitStep (h : Inv s) (hb : s.syncBarrier = false) : Inv s.keyWaitStep := by
  rw [s.keyWaitStep_eq]
  exact { h with blocking := fun hs => Bool.false_ne_true (hb.symm.trans hs.1) }

/-- `pc` after a skip, taken or not. -/
theorem Inv.skipIf (h : Inv s) (c : Bool) : Inv (s.skipIf c) := by
  cases c
  · exact h
  · exact h.advancePc

theorem prngStep_lt (cfg : Config) (r : Nat) : prngStep cfg r < 2 ^ cfg.prngWidth :=
  Nat.mod_lt _ (Nat.two_pow_pos _)

/-- A push stores an address. -/
theorem Inv.push_stack_lt (h : Inv s) (hsp : s.sp.val < 16) (k : Nat) (hk : k < 16) :
    ((s.stack.set s.sp.val s.pc hsp)[k]'hk).toNat < 4096 := by
  rw [Vector.getElem_set]
  split
  · exact h.pc_lt
  · exact h.stack_lt k hk

/-- Toggling a pixel that is 0 or 1, or leaving it, gives 0 or 1. -/
theorem pixel_bit_of_toggle {a b : Byte} (ha : a = 0#8 ∨ a = 1#8) (hb : b = a ∨ b = a ^^^ 1#8) :
    b = 0#8 ∨ b = 1#8 := by
  rcases ha with rfl | rfl <;> rcases hb with rfl | rfl <;> decide

/-- An instruction keeps the invariants: its meaning runs with the barrier cleared and no key wait armed. -/
theorem Inv.exec {i : Instr} (h : Inv s) (hb : s.syncBarrier = false) (hw : s.waitingForKey = false)
    (ht : Machine.exec i s = .next t) : Inv t := by
  cases exec_frame ht with
  | clear => exact { h with display_wf := ⟨.nil, by simp⟩, pixels := fun _ _ _ _ => .inl rfl }
  | draw x y n d v hwf hpix =>
    exact { h with
      display_wf := hwf h.display_wf
      pixels := fun col row hc hr => pixel_bit_of_toggle (h.pixels col row hc hr) (hpix col row hc hr) }
  | pop sp a ha => exact { h with pc_lt := ha }
  | push nnn hsp sp a ha => exact { h with pc_lt := ha, stack_lt := h.push_stack_lt hsp }
  | jump nnn a ha => exact { h with pc_lt := ha }
  | skip x y kk c => exact { h with pc_lt := (h.skipIf c).pc_lt }
  | random x kk b => exact { h with rng_lt := prngStep_lt _ _ }
  | index nnn x a ha => exact { h with index_lt := ha }
  | decimals x m hwf => exact { h with mem_wf := hwf h.mem_wf }
  | storeBlock x m a ha hwf => exact { h with index_lt := ha, mem_wf := hwf h.mem_wf }
  | loadBlock x v a ha => exact { h with index_lt := ha }
  | armKeyWait x => exact { h with blocking := fun hs => Bool.false_ne_true (hb.symm.trans hs.1) }
  | sync es => exact { h with blocking := fun hs => Bool.false_ne_true (hw.symm.trans hs.2) }
  | _ => exact { h with }

theorem Inv.cycle (h : Inv s) (ht : Machine.cycle s = .next t) : Inv t := by
  cases cycle_reaches ht with
  | held r => exact h.report r
  | waited r => exact (h.openGates.keyWaitStep rfl).report r
  | passed r hw => exact h.openGates.advancePc.report r
  | ran r hw hu => exact (h.openGates.advancePc.exec rfl hw hu).report r

theorem Inv.tick (h : Inv s) : Inv (tick s) := by
  rw [tick_eq]
  exact { h with }

theorem programOrigin_lt {cfg : Config} (h : cfg.wellFormed = true) : cfg.layout.programOrigin < 4096 := by
  simp only [Config.wellFormed, Layout.wellFormed, Bool.and_eq_true] at h
  obtain ⟨⟨⟨⟨⟨⟨⟨⟨⟨-, -⟩, horigin⟩, -⟩, -⟩, -⟩, -⟩, -⟩, -⟩, -⟩ := h
  exact of_decide_eq_true horigin

theorem resetOp_rng_lt (seed : Option Nat) (s : State) : (resetOp seed s).rng < 2 ^ s.cfg.prngWidth := by
  cases seed <;> exact Nat.mod_lt _ (Nat.two_pow_pos _)

/-- A reset reaches the invariants from every state whose parameters a model may take. -/
theorem inv_resetOp (seed : Option Nat) (hcfg : s.cfg.wellFormed = true) : Inv (resetOp seed s) := by
  have hpc : (BitVec.ofNat 16 s.cfg.layout.programOrigin).toNat < 4096 := by
    have := programOrigin_lt hcfg
    simp only [BitVec.toNat_ofNat]
    omega
  rw [resetOp_eq]
  exact {
    pc_lt := hpc
    index_lt := (by decide : State.reset.index.toNat < 4096)
    stack_lt := (by decide : ∀ k : Nat, ∀ hk : k < 16, (State.reset.stack[k]'hk).toNat < 4096)
    mem_wf := ⟨.nil, by simp [State.reset]⟩
    display_wf := (by decide : Display.wf State.reset.display)
    pixels := fun _ _ _ _ => .inl rfl
    rng_lt := resetOp_rng_lt seed s
    cfg_wf := hcfg
    blocking := (by decide : ¬ (State.reset.syncBarrier = true ∧ State.reset.waitingForKey = true)) }

theorem Inv.copyBytes (h : Inv s) (a : Word) (image : List Byte) : Inv (s.copyBytes a image) := by
  have hmem := s.copyBytes_wf a image h.mem_wf
  rw [State.copyBytes_eq]
  exact { h with mem_wf := hmem }

theorem Inv.loadOp (h : Inv s) (image : List Byte) (seed : Option Nat) : Inv (loadOp image seed s) := by
  unfold Machine.loadOp
  split
  · exact (inv_resetOp seed h.cfg_wf).copyBytes _ _
  · exact h.report _

theorem Inv.perform {op : HostOp} (h : Inv s) (ht : Machine.perform op s = .next t) : Inv t := by
  cases op with
  | cycle inp => exact (h.withInputs inp).cycle ht
  | tick => cases ht; exact h.tick
  | reset seed => cases ht; exact inv_resetOp seed h.cfg_wf
  | load image seed => cases ht; exact h.loadOp image seed
  | ackDraw => cases ht; exact { h with }

end Invariant

/-- Settles O9: every host operation keeps the invariants. -/
theorem everyStepKeepsTheInvariants : Obligations.EveryStepKeepsTheInvariants := by
  intro s t h ht
  cases hs : s.script with
  | nil => exact h.cycle ((step_of_nil hs).symm.trans ht)
  | cons op rest => exact (h.withScript rest).perform ((step_of_cons hs).symm.trans ht)

/-- Settles O8: the reset state is what a reset with seed 0 makes of itself. -/
theorem resetMeetsTheInvariants : Obligations.ResetMeetsTheInvariants :=
  inv_resetOp (s := State.reset) (some 0) (by decide)

end Sys2Proof
end

section
/-! PROOFS. The reset values of 10_state.md R45, and the inputs a cycle does not read (R42). -/

namespace Sys2Proof.Machine

/-! ## The reset values of 10_state.md R45 -/

/-- Outside the 80 bytes of the default glyph table memory is 0 after reset. -/
theorem memoryAtReset_outside_font {a : Nat} (h : a < 0x050 ∨ 0x0A0 ≤ a) : memoryAtReset defaultLayout a = 0#8 := by
  have hlen : defaultLayout.fontData.length = 80 := by decide
  have hbase : defaultLayout.fontBase = 0x050 := rfl
  unfold memoryAtReset
  rw [hbase]
  split
  · rw [List.getD_eq_default]
    omega
  · rfl

/-- Settles O7: the glyph bytes by evaluation, the rest of memory by the bounds of the glyph table. -/
theorem resetValues : Obligations.ResetValues := by
  refine ⟨by decide, rfl, rfl, rfl, by decide, fun _ _ _ _ => rfl, by decide, ?_, rfl, rfl, by decide, rfl, rfl, rfl,
    rfl, rfl, rfl, rfl, rfl, rfl, rfl⟩
  intro a ha
  have hread : State.reset.readByte a = memoryAtReset defaultLayout (wrap12 a).toNat := rfl
  rw [hread, memoryAtReset_outside_font]
  rw [wrap12_toNat]
  omega

/-! ## Inputs a cycle does not read (10_state.md R42) -/

/-- The state with other inputs presented. -/
def State.withInputs (s : State) (inp : Inputs) : State := { s with inputs := inp }

section Inputs

variable {s t : State} (inp : Inputs)

theorem storeBlock_withInputs (n : Nat) : (s.withInputs inp).storeBlock n = (s.storeBlock n).withInputs inp := by
  induction n with
  | zero => rfl
  | succ n ih => rw [State.storeBlock_succ, State.storeBlock_succ, ih]; rfl

theorem loadBlock_withInputs (n : Nat) : (s.withInputs inp).loadBlock n = (s.loadBlock n).withInputs inp := by
  induction n with
  | zero => rfl
  | succ n ih => rw [State.loadBlock_succ, State.loadBlock_succ, ih]; rfl

theorem skipIf_withInputs (c : Bool) : (s.withInputs inp).skipIf c = (s.skipIf c).withInputs inp := by
  cases c <;> rfl

theorem write8_withInputs (x : Reg) (r : Byte) (f : Bool) :
    (s.withInputs inp).write8 x r f = (s.write8 x r f).withInputs inp := by
  have hcfg : (s.withInputs inp).cfg = s.cfg := rfl
  unfold State.write8
  rw [hcfg]
  split <;> rfl

theorem keyPress_withInputs : (s.withInputs inp).keyPress = s.keyPress.withInputs inp := by
  have hkeys : (s.withInputs inp).keyState = s.keyState := rfl
  unfold State.keyPress
  rw [hkeys]
  split <;> rfl

theorem keyRelease_withInputs : (s.withInputs inp).keyRelease = s.keyRelease.withInputs inp := by
  have hheld : keyAt (s.withInputs inp).keyState (s.withInputs inp).waitingTrackedKey
      = keyAt s.keyState s.waitingTrackedKey := rfl
  unfold State.keyRelease
  rw [hheld]
  split <;> rfl

theorem keyWaitStep_withInputs : (s.withInputs inp).keyWaitStep = s.keyWaitStep.withInputs inp := by
  have hphase : (s.withInputs inp).waitingPhase = s.waitingPhase := rfl
  unfold State.keyWaitStep
  rw [hphase]
  split
  · exact keyPress_withInputs inp
  · exact keyRelease_withInputs inp

/-- An instruction neither reads the inputs nor writes them. -/
theorem exec_withInputs {i : Instr} (h : exec i s = .next t) :
    exec i (s.withInputs inp) = .next (t.withInputs inp) := by
  cases i with
  | storeRegs x => cases h; exact congrArg _ (storeBlock_withInputs inp _)
  | loadRegs x => cases h; exact congrArg _ (loadBlock_withInputs inp _)
  | seImm | sneImm | seReg | sneReg | skp | sknp => cases h; exact congrArg _ (skipIf_withInputs inp _)
  | addReg | subReg | shrReg | subnReg | shlReg => cases h; exact congrArg _ (write8_withInputs inp _ _ _)
  | ret | call =>
    simp only [exec, execRet, execCall] at h
    split at h
    · cases h; exact dif_pos ‹_›
    · cases h; exact dif_neg ‹_›
  | sync | ldSTVx =>
    simp only [exec, execSync, execLdSTVx] at h
    split at h
    · cases h; exact if_pos ‹_›
    · cases h; exact if_neg ‹_›
  | _ => cases h; rfl

theorem fetchExecute_withInputs (h : fetchExecute s = .next t) :
    fetchExecute (s.withInputs inp) = .next (t.withInputs inp) := by
  obtain ⟨u, hu, hfe⟩ := fetchExecute_completes s
  obtain rfl := Host.Outcome.next.inj (hfe.symm.trans h)
  cases hd : decode s.cfg s.fetchOpcode with
  | instr i =>
    rw [hd] at hu
    exact fetchExecute_of_instr (s := s.withInputs inp) hd (exec_withInputs inp hu)
  | nop why =>
    rw [hd] at hu
    obtain rfl := Host.Outcome.next.inj hu
    exact fetchExecute_of_nop (s := s.withInputs inp) hd

theorem barrierBlocks_withInputs
    (h : s.syncBarrier = true → s.cfg.coordPresent = true → inp.barrierComplete = s.inputs.barrierComplete) :
    (s.withInputs inp).barrierBlocks = s.barrierBlocks := by
  unfold State.barrierBlocks State.withInputs
  dsimp only
  cases hb : s.syncBarrier
  · rfl
  · cases hc : s.cfg.coordPresent
    · rfl
    · rw [h hb hc]

/-- A player's source is in use only with a coordinator attached and a player selected. -/
theorem coordPresent_of_sourcePlayer_ne_zero (h : s.sourcePlayer ≠ 0#4) :
    s.cfg.coordPresent = true ∧ s.activePlayer ≠ 0#4 := by
  unfold State.sourcePlayer at h
  split at h
  · exact ⟨‹_›, h⟩
  · exact absurd rfl h

theorem playerOutOfRange_withInputs
    (h : s.activePlayer ≠ 0#4 → s.cfg.coordPresent = true → inp.playerCount = s.inputs.playerCount) :
    (s.withInputs inp).playerOutOfRange = s.playerOutOfRange := by
  have hplayer : (s.withInputs inp).sourcePlayer = s.sourcePlayer := rfl
  unfold State.playerOutOfRange
  rw [hplayer]
  by_cases h0 : s.sourcePlayer = 0#4
  · rw [h0]; rfl
  · obtain ⟨hc, hactive⟩ := coordPresent_of_sourcePlayer_ne_zero h0
    have hsame : (s.withInputs inp).inputs.playerCount = s.inputs.playerCount := h hactive hc
    rw [hsame]

theorem openGates_withInputs (h : inp.keys[s.sourcePlayer.toNat]'s.sourcePlayer.isLt = s.sourceKeys) :
    (s.withInputs inp).openGates = s.openGates.withInputs inp := by
  have hkeys : (s.withInputs inp).sourceKeys = s.sourceKeys := h
  unfold State.openGates
  rw [hkeys]
  rfl

end Inputs

/-- Settles O21: the gates read the inputs the premises hold equal, and what runs past them reads none. -/
theorem unreadInputsAreInvisible : Obligations.UnreadInputsAreInvisible := by
  intro s inp hkeys hbarrier hcount t h
  have hb := barrierBlocks_withInputs inp hbarrier
  have hp := playerOutOfRange_withInputs inp hcount
  have hgates := openGates_withInputs inp hkeys
  rcases cycle_cases s with
    ⟨hh, hc⟩ | ⟨hh, hbs, hc⟩ | ⟨-, -, -, hc⟩ | ⟨hh, hbs, hps, hw, hc⟩ | ⟨hh, hbs, hps, hw, hc⟩
  · obtain rfl := Host.Outcome.next.inj (hc.symm.trans h)
    exact cycle_of_halted (s := s.withInputs inp) hh
  · obtain rfl := Host.Outcome.next.inj (hc.symm.trans h)
    exact cycle_of_blocked (s := s.withInputs inp) hh (hb.trans hbs)
  · cases hc.symm.trans h
  · obtain rfl := Host.Outcome.next.inj (hc.symm.trans h)
    have hcyc := cycle_of_waiting (s := s.withInputs inp) hh (hb.trans hbs) (hp.trans hps) hw
    rw [hgates, keyWaitStep_withInputs] at hcyc
    exact hcyc
  · have hcyc := cycle_of_running (s := s.withInputs inp) hh (hb.trans hbs) (hp.trans hps) hw
    rw [hgates, fetchExecute_withInputs inp (hc.symm.trans h)] at hcyc
    exact hcyc

end Sys2Proof.Machine
end

section
/-! PROOFS. The rules of 20_memory.md: who writes memory, and what a fetch reads of a stored block. -/

namespace Sys2Proof.Machine

/-- Settles O30: only the frames of FX33 and FX55 have memory in them, and none has the parameters that an unlisted
address reads as. -/
theorem onlyStoresWriteMemory : Obligations.OnlyStoresWriteMemory := by
  intro i s t h hi
  cases exec_frame h with
  | decimals x => exact absurd rfl (hi x).1
  | storeBlock x => exact absurd rfl (hi x).2
  | _ => exact fun _ => rfl

/-- The fetch at an address, high byte first (20_memory.md R61, decision D3). -/
theorem State.fetchOpcode_setPc (s : State) (a : Word) :
    (s.setPc a).fetchOpcode = s.readByte a ++ s.readByte (add12 a 1#16) := rfl

/-- Settles O36: the fetch and the first two transfers meet at the same two addresses, both taken mod 4096. -/
theorem storedOpcodeIsFetched : Obligations.StoredOpcodeIsFetched := by
  intro s t x hx h
  cases h
  have hn : x.toNat + 1 ≤ 16 := x.isLt
  have hhi : (s.storeBlock (x.toNat + 1)).readByte s.index = s.reg 0#4 :=
    (s.storeBlock_readByte _ hn _).1 0 (by omega) rfl
  have hlo : (s.storeBlock (x.toNat + 1)).readByte (add12 s.index 1#16) = s.reg 1#4 :=
    (s.storeBlock_readByte _ hn _).1 1 (by omega) (by simp)
  calc ((s.storeBlock (x.toNat + 1)).setPc s.index).fetchOpcode
      = (s.storeBlock (x.toNat + 1)).readByte s.index
          ++ (s.storeBlock (x.toNat + 1)).readByte (add12 s.index 1#16) := State.fetchOpcode_setPc _ _
    _ = s.reg 0#4 ++ s.reg 1#4 := by rw [hhi, hlo]

end Sys2Proof.Machine
end

section
/-! PROOFS for the encoding family (spec/30_encoding.md). Two facts carry it: a word of a row decodes to the row's
instruction (`decode_of_row`), and a word that decodes to an instruction is that instruction's own (`encode_of_decode`). -/

namespace Sys2Proof

open Machine

section Encoding

variable {cfg : Config} {l : Layout} {op m v : Word} {row : TableRow × (Word → Instr)} {i : Instr} {n : Nat}

/-! ## The fields of a word that matches a row -/

/-- A field that the mask covers is the row's. -/
theorem extractLsb'_of_match {start len : Nat} (hmask : m.extractLsb' start len = BitVec.allOnes len)
    (h : op &&& m = v) : op.extractLsb' start len = v.extractLsb' start len := by
  rw [← h, BitVec.extractLsb'_and, hmask, BitVec.and_allOnes]

theorem fieldC_of_match (hmask : fieldC m = BitVec.allOnes 4) (h : op &&& m = v) : fieldC op = fieldC v :=
  extractLsb'_of_match hmask h

theorem fieldN_of_match (hmask : fieldN m = BitVec.allOnes 4) (h : op &&& m = v) : fieldN op = fieldN v :=
  extractLsb'_of_match hmask h

theorem fieldKK_of_match (hmask : fieldKK m = BitVec.allOnes 8) (h : op &&& m = v) : fieldKK op = fieldKK v :=
  extractLsb'_of_match hmask h

/-! ## A word put together from its own fields -/

theorem wordNNN_of_fields {c : BitVec 4} (hc : (fieldC op).toNat = c.toNat) : wordNNN c (fieldNNN op) = op := by
  rw [← BitVec.eq_of_toNat_eq hc]
  exact (BitVec.extractLsb'_append_extractLsb'_eq_extractLsb' rfl).trans BitVec.extractLsb'_eq_self

theorem wordXKK_of_fields {c : BitVec 4} {kk : Byte} (hc : (fieldC op).toNat = c.toNat) (hkk : fieldKK op = kk) :
    wordXKK c (fieldX op) kk = op := by
  have hlow : fieldX op ++ kk = fieldNNN op := by
    rw [← hkk]
    exact BitVec.extractLsb'_append_extractLsb'_eq_extractLsb' rfl
  exact (congrArg (c ++ ·) hlow).trans (wordNNN_of_fields hc)

theorem wordXYN_of_fields {c k : BitVec 4} (hc : (fieldC op).toNat = c.toNat) (hn : (fieldN op).toNat = k.toNat) :
    wordXYN c (fieldX op) (fieldY op) k = op := by
  have hlow : fieldY op ++ k = fieldKK op := by
    rw [← BitVec.eq_of_toNat_eq hn]
    exact BitVec.extractLsb'_append_extractLsb'_eq_extractLsb' rfl
  exact (congrArg (fun b => c ++ (fieldX op ++ b)) hlow).trans (wordXKK_of_fields hc rfl)

/-! ## The words of group 0 (R84, decision D2) -/

theorem Config.layout_wellFormed (h : cfg.wellFormed = true) : cfg.layout.wellFormed = true :=
  (Bool.and_eq_true_iff.mp h).1

/-- What the checks of D2 say of the multiplayer words. -/
theorem Layout.multiplayer_words (h : l.wellFormed = true) :
    l.mpBase + 15 < 0x1000 ∧ l.mpShared < 0x1000
      ∧ (∀ n < 16, l.mpBase + n ≠ 0xE0 ∧ l.mpBase + n ≠ 0xEE ∧ l.mpBase + n ≠ l.mpShared)
      ∧ l.mpShared ≠ 0xE0 ∧ l.mpShared ≠ 0xEE := by
  simp only [Layout.wellFormed, Layout.mpBlockInGroup0, Layout.sharedInGroup0, Layout.mpBlockAvoidsClsRet,
    Layout.sharedAvoidsClsRet, Layout.sharedOutsideMpBlock, Bool.and_eq_true, Bool.not_eq_true', Bool.and_eq_false_iff,
    decide_eq_true_eq, decide_eq_false_iff_not, bne_iff_ne] at h
  obtain ⟨⟨⟨⟨⟨⟨-, hblock⟩, -⟩, hshared⟩, havoid⟩, hsavoid⟩, hout⟩ := h
  refine ⟨hblock, hshared, fun n hn => ?_, hsavoid⟩
  omega

theorem decode_of_lt (h : op.toNat < 0x1000) : decode cfg op = decodeGroup0 cfg.layout op := by
  have hc : fieldC op = 0#4 := BitVec.eq_of_toNat_eq (by
    simp only [fieldC, BitVec.extractLsb'_toNat, Nat.shiftRight_eq_div_pow, BitVec.toNat_ofNat]
    omega)
  unfold decode
  rw [hc]
  rfl

theorem decode_mpWord (h : cfg.layout.wellFormed = true) (n : Fin 16) :
    decode cfg (mpWord cfg.layout n) = .instr (decodeMultiplayer n) := by
  obtain ⟨hblock, -, havoid, -⟩ := Layout.multiplayer_words h
  obtain ⟨hcls, hret, -⟩ := havoid n n.isLt
  have hw : (mpWord cfg.layout n).toNat = cfg.layout.mpBase + n := by
    rw [mpWord, BitVec.toNat_ofNat]
    omega
  have hne_cls : mpWord cfg.layout n ≠ 0x00E0#16 := BitVec.toNat_ne_iff_ne.mp (hw.trans_ne hcls)
  have hne_ret : mpWord cfg.layout n ≠ 0x00EE#16 := BitVec.toNat_ne_iff_ne.mp (hw.trans_ne hret)
  rw [decode_of_lt (by omega), decodeGroup0, if_neg hne_cls, if_neg hne_ret, hw, if_pos (by omega),
    Nat.add_sub_cancel_left]

theorem decode_mpShared (h : cfg.layout.wellFormed = true) :
    decode cfg (BitVec.ofNat 16 cfg.layout.mpShared) = .instr .shared := by
  obtain ⟨-, hlt, havoid, hcls, hret⟩ := Layout.multiplayer_words h
  have hout : ¬ (cfg.layout.mpBase ≤ cfg.layout.mpShared ∧ cfg.layout.mpShared ≤ cfg.layout.mpBase + 15) := fun hin => by
    obtain ⟨-, -, hne⟩ := havoid (cfg.layout.mpShared - cfg.layout.mpBase) (by omega)
    omega
  have hw : (BitVec.ofNat 16 cfg.layout.mpShared).toNat = cfg.layout.mpShared := by
    rw [BitVec.toNat_ofNat]
    omega
  have hne_cls : BitVec.ofNat 16 cfg.layout.mpShared ≠ 0x00E0#16 := BitVec.toNat_ne_iff_ne.mp (hw.trans_ne hcls)
  have hne_ret : BitVec.ofNat 16 cfg.layout.mpShared ≠ 0x00EE#16 := BitVec.toNat_ne_iff_ne.mp (hw.trans_ne hret)
  rw [decode_of_lt (by omega), decodeGroup0, if_neg hne_cls, if_neg hne_ret, hw, if_neg hout, if_pos rfl]

/-! ## A word of a row decodes to the row's instruction -/

theorem decode_of_row_group0 (h : cfg.layout.wellFormed = true) (hrow : row ∈ opcodeMapGroup0 cfg.layout)
    (hm : op &&& row.1.mask = row.1.value) : decode cfg op = .instr (row.2 op) := by
  have hmask : ∀ row ∈ opcodeMapGroup0 cfg.layout, row.1.mask = BitVec.allOnes 16 := by simp [opcodeMapGroup0, rowOf]
  rw [hmask row hrow, BitVec.and_allOnes] at hm
  subst hm
  simp only [opcodeMapGroup0, List.cons_append, List.nil_append, List.mem_cons, List.not_mem_nil, or_false] at hrow
  rcases hrow with rfl | rfl | rfl | rfl | rfl | rfl | rfl | rfl | rfl | rfl | rfl | rfl | rfl | rfl | rfl | rfl | rfl
    | rfl | rfl
  exacts [rfl, rfl, decode_mpWord h 0, decode_mpWord h 1, decode_mpWord h 2, decode_mpWord h 3, decode_mpWord h 4,
    decode_mpWord h 5, decode_mpWord h 6, decode_mpWord h 7, decode_mpWord h 8, decode_mpWord h 9, decode_mpWord h 10,
    decode_mpWord h 11, decode_mpWord h 12, decode_mpWord h 13, decode_mpWord h 14, decode_mpWord h 15,
    decode_mpShared h]

theorem decode_of_row_NNN (hrow : row ∈ opcodeMapNNN) (hm : op &&& row.1.mask = row.1.value) :
    decode cfg op = .instr (row.2 op) := by
  have hmask : ∀ row ∈ opcodeMapNNN, fieldC row.1.mask = BitVec.allOnes 4 := by decide
  have hc := fieldC_of_match (hmask row hrow) hm
  simp only [opcodeMapNNN, List.mem_cons, List.not_mem_nil, or_false] at hrow
  rcases hrow with rfl | rfl | rfl | rfl <;> (simp only [decode, hc]; rfl)

theorem decode_of_row_XKK (hrow : row ∈ opcodeMapXKK) (hm : op &&& row.1.mask = row.1.value) :
    decode cfg op = .instr (row.2 op) := by
  have hmask : ∀ row ∈ opcodeMapXKK, fieldC row.1.mask = BitVec.allOnes 4 := by decide
  have hc := fieldC_of_match (hmask row hrow) hm
  simp only [opcodeMapXKK, List.mem_cons, List.not_mem_nil, or_false] at hrow
  rcases hrow with rfl | rfl | rfl | rfl | rfl <;> (simp only [decode, hc]; rfl)

/-- Every row but DRW's fixes the low nibble, and with low nibble 0 the words of groups 5 and 9 are skips under both
values of the parameter. -/
theorem decode_of_row_XY (hrow : row ∈ opcodeMapXY) (hm : op &&& row.1.mask = row.1.value) :
    decode cfg op = .instr (row.2 op) := by
  have hmask : ∀ row ∈ opcodeMapXY, fieldC row.1.mask = BitVec.allOnes 4 := by decide
  have hc := fieldC_of_match (hmask row hrow) hm
  simp only [opcodeMapXY, List.cons_append, List.nil_append, List.mem_cons, List.not_mem_nil, or_false] at hrow
  rcases hrow with rfl | rfl | rfl | rfl | rfl | rfl | rfl | rfl | rfl | rfl | rfl | rfl
  on_goal 12 => simp only [decode, hc]; rfl
  all_goals
    have hn := fieldN_of_match rfl hm
    simp only [decode, hc, decodeGroup8, skipRegMatches, hn]
    rfl

theorem decode_of_row_X (hrow : row ∈ opcodeMapX) (hm : op &&& row.1.mask = row.1.value) :
    decode cfg op = .instr (row.2 op) := by
  have hmask : ∀ row ∈ opcodeMapX, fieldC row.1.mask = BitVec.allOnes 4 ∧ fieldKK row.1.mask = BitVec.allOnes 8 := by
    decide
  obtain ⟨hmaskC, hmaskKK⟩ := hmask row hrow
  have hc := fieldC_of_match hmaskC hm
  have hkk := fieldKK_of_match hmaskKK hm
  simp only [opcodeMapX, List.cons_append, List.nil_append, List.mem_cons, List.not_mem_nil, or_false] at hrow
  rcases hrow with rfl | rfl | rfl | rfl | rfl | rfl | rfl | rfl | rfl | rfl | rfl <;>
    (simp only [decode, hc, decodeGroupE, decodeGroupF, hkk]; rfl)

/-- Under both values of SKIP_REG_LOW_NIBBLE. -/
theorem decode_of_row (h : cfg.layout.wellFormed = true) (hrow : row ∈ opcodeMap cfg.layout)
    (hm : op &&& row.1.mask = row.1.value) : decode cfg op = .instr (row.2 op) := by
  simp only [opcodeMap, List.mem_append] at hrow
  rcases hrow with h0 | hnnn | hxkk | hxy | hx
  · exact decode_of_row_group0 h h0 hm
  · exact decode_of_row_NNN hnnn hm
  · exact decode_of_row_XKK hxkk hm
  · exact decode_of_row_XY hxy hm
  · exact decode_of_row_X hx hm

/-- The lemmas of Laws/PerInstr.lean together. -/
theorem encode_mem_row (l : Layout) (i : Instr) :
    ∃ row ∈ opcodeMap l, encode l i &&& row.1.mask = row.1.value ∧ row.2 (encode l i) = i := by
  have h : Laws.EncodedRow.Statement i := by
    open Laws.EncodedRow in
    cases i
    exacts [cls, ret, sync, player1, player2, player3, player4, player5, player6, player7, player8, player9, player10,
      player11, player12, player13, player14, player15, shared, jp _, call _, seImm _ _, sneImm _ _, seReg _ _,
      ldImm _ _, addImm _ _, ldReg _ _, orReg _ _, andReg _ _, xorReg _ _, addReg _ _, subReg _ _, shrReg _ _,
      subnReg _ _, shlReg _ _, sneReg _ _, ldI _, jpV0 _, rnd _ _, drw _ _ _, skp _, sknp _, ldVxDT _, ldVxK _,
      ldDTVx _, ldSTVx _, addI _, ldF _, ldB _, storeRegs _, loadRegs _]
  obtain ⟨row, hrow, hm, hi⟩ := h l
  exact ⟨row, hrow, beq_iff_eq.mp hm, hi⟩

/-! ## A word that decodes to an instruction is the instruction's own -/

theorem encode_decodeMultiplayer (hn : n < 16) : encode l (decodeMultiplayer n) = mpWord l n := by
  interval_cases n <;> rfl

theorem encode_of_decodeGroup0 (h : decodeGroup0 l op = .instr i) : encode l i = op := by
  unfold decodeGroup0 at h
  split_ifs at h with hcls hret hmp hshared <;> cases h
  · exact hcls.symm
  · exact hret.symm
  · have hsum : l.mpBase + (op.toNat - l.mpBase) = op.toNat := by omega
    rw [encode_decodeMultiplayer (by omega), mpWord, hsum, BitVec.ofNat_toNat, BitVec.setWidth_eq]
  · rw [encode, ← hshared, BitVec.ofNat_toNat, BitVec.setWidth_eq]

theorem encode_of_decodeGroup8 (hc : (fieldC op).toNat = 0x8) (h : decodeGroup8 op = .instr i) : encode l i = op := by
  unfold decodeGroup8 at h
  split at h <;> cases h
  all_goals exact wordXYN_of_fields hc ‹_›

theorem encode_of_decodeGroupE (hc : (fieldC op).toNat = 0xE) (h : decodeGroupE op = .instr i) : encode l i = op := by
  unfold decodeGroupE at h
  split_ifs at h <;> cases h
  all_goals exact wordXKK_of_fields hc ‹_›

theorem encode_of_decodeGroupF (hc : (fieldC op).toNat = 0xF) (h : decodeGroupF op = .instr i) : encode l i = op := by
  unfold decodeGroupF at h
  split_ifs at h <;> cases h
  all_goals exact wordXKK_of_fields hc ‹_›

theorem fieldN_of_skipRegMatches {mode : SkipLowNibble} (hmode : mode ≠ .ignore) (h : skipRegMatches mode op = true) :
    (fieldN op).toNat = (0#4).toNat := by
  simp only [skipRegMatches, Bool.or_eq_true, beq_iff_eq] at h
  rw [h.resolve_right hmode]

/-- The words of groups 5 and 9 under `ignore` are left out: their low nibble is lost (R88). -/
theorem encode_of_decode (hmode : cfg.skipLowNibble = .ignore → fieldC op ≠ 0x5#4 ∧ fieldC op ≠ 0x9#4)
    (h : decode cfg op = .instr i) : encode cfg.layout i = op := by
  have hlt := (fieldC op).isLt
  unfold decode at h
  split at h
  case h_1 => exact encode_of_decodeGroup0 h
  case h_2 | h_3 | h_11 | h_12 => cases h; exact wordNNN_of_fields ‹_›
  case h_4 | h_5 | h_7 | h_8 | h_13 => cases h; exact wordXKK_of_fields ‹_› rfl
  case h_6 hc =>
    have hstrict : cfg.skipLowNibble ≠ .ignore := fun hi => (hmode hi).1 (BitVec.eq_of_toNat_eq hc)
    split at h <;> cases h
    exact wordXYN_of_fields hc (fieldN_of_skipRegMatches hstrict ‹_›)
  case h_10 hc =>
    have hstrict : cfg.skipLowNibble ≠ .ignore := fun hi => (hmode hi).2 (BitVec.eq_of_toNat_eq hc)
    split at h <;> cases h
    exact wordXYN_of_fields hc (fieldN_of_skipRegMatches hstrict ‹_›)
  case h_9 hc => exact encode_of_decodeGroup8 hc h
  case h_14 hc => cases h; exact wordXYN_of_fields hc rfl
  case h_15 hc => exact encode_of_decodeGroupE hc h
  case h_16 =>
    have hc : (fieldC op).toNat = 0xF := by
      simp only [imp_false] at *
      omega
    exact encode_of_decodeGroupF hc h

/-- A word of no row is a no-op: an instruction's own word is a word of a row. -/
theorem nop_of_no_row (hmode : cfg.skipLowNibble = .ignore → fieldC op ≠ 0x5#4 ∧ fieldC op ≠ 0x9#4)
    (hno : ∀ row ∈ opcodeMap cfg.layout, op &&& row.1.mask ≠ row.1.value) : ∃ why, decode cfg op = .nop why := by
  cases hd : decode cfg op with
  | nop why => exact ⟨why, rfl⟩
  | instr i =>
    obtain ⟨row, hrow, hm, -⟩ := encode_mem_row cfg.layout i
    rw [encode_of_decode hmode hd] at hm
    exact absurd hm (hno row hrow)

/-! ## No two rows give one instruction -/

theorem rowInstrs_nodup (l : Layout) (op : Word) : ((opcodeMap l).map fun row => row.2 op).Nodup := by
  refine List.Nodup.of_map Instr.ctorIdx ?_
  rw [List.map_map]
  exact of_decide_eq_true rfl

/-! ## The register skips (R88) -/

theorem decode_group5 (hc : fieldC op = 0x5#4) : decode cfg op =
    if skipRegMatches cfg.skipLowNibble op then .instr (.seReg (fieldX op) (fieldY op)) else .nop .skipLowNibble := by
  simp only [decode, hc]
  rfl

theorem decode_group9 (hc : fieldC op = 0x9#4) : decode cfg op =
    if skipRegMatches cfg.skipLowNibble op then .instr (.sneReg (fieldX op) (fieldY op)) else .nop .skipLowNibble := by
  simp only [decode, hc]
  rfl

theorem skipRegMatches_strict (hn : fieldN op ≠ 0#4) : skipRegMatches .strict op = false := by
  rw [skipRegMatches, beq_eq_false_iff_ne.mpr hn]
  rfl

theorem skipRegMatches_ignore (op : Word) : skipRegMatches .ignore op = true := Bool.or_true _

end Encoding

/-- Settles O2: the instruction's own word is a word of a row, and the row gives the instruction back. -/
theorem decodeOfEncodeIsTheInstruction : Obligations.DecodeOfEncodeIsTheInstruction := by
  intro cfg i h _
  obtain ⟨row, hrow, hm, hi⟩ := encode_mem_row cfg.layout i
  have hd := decode_of_row (Config.layout_wellFormed h) hrow hm
  rwa [hi] at hd

/-- Settles O3: under strict no decoded word loses a field. -/
theorem encodeOfDecodeIsTheWord : Obligations.EncodeOfDecodeIsTheWord :=
  fun _ _ _ hs hd => encode_of_decode (fun hi => SkipLowNibble.noConfusion (hs.symm.trans hi)) hd

/-- Settles O4: a word of two rows would decode to the instructions of both, and no two rows give one instruction. -/
theorem noTwoTableRowsOverlap : Obligations.NoTwoTableRowsOverlap := by
  intro l hl
  rw [tableRows, List.pairwise_map, List.pairwise_iff_forall_sublist]
  rintro r q hsub op ⟨hr, hq⟩
  have hdr := decode_of_row (cfg := { defaultConfig with layout := l }) hl (hsub.subset (by simp)) (beq_iff_eq.mp hr)
  have hdq := decode_of_row (cfg := { defaultConfig with layout := l }) hl (hsub.subset (by simp)) (beq_iff_eq.mp hq)
  have heq : r.2 op = q.2 op := Decoded.instr.inj (hdr.symm.trans hdq)
  have hne : [r.2 op, q.2 op].Nodup :=
    (hsub.map fun row : TableRow × (Word → Instr) => row.2 op).nodup (rowInstrs_nodup l op)
  simp [heq] at hne

/-- Settles O5: `decode_of_row` and `nop_of_no_row`. -/
theorem decodesExactlyTheTableRows : Obligations.DecodesExactlyTheTableRows :=
  fun _ _ h hs => ⟨fun _ => decode_of_row (Config.layout_wellFormed h),
    nop_of_no_row fun hi => SkipLowNibble.noConfusion (hs.symm.trans hi)⟩

/-- Settles O6: with a nonzero low nibble the parameter alone decides. -/
theorem registerSkipLowNibble : Obligations.RegisterSkipLowNibble := by
  intro cfg op hn
  refine ⟨fun hc => ⟨fun hs => ?_, fun hi => ?_⟩, fun hc => ⟨fun hs => ?_, fun hi => ?_⟩⟩
  · rw [decode_group5 hc, hs, skipRegMatches_strict hn]; rfl
  · rw [decode_group5 hc, hi, skipRegMatches_ignore]; rfl
  · rw [decode_group9 hc, hs, skipRegMatches_strict hn]; rfl
  · rw [decode_group9 hc, hi, skipRegMatches_ignore]; rfl

/-- Settles O11: past the gates the cycle fetches, and the word is a no-op. -/
theorem unmatchedWordOnlyAdvancesPc : Obligations.UnmatchedWordOnlyAdvancesPc := by
  rintro s hscript ⟨hhalted, hbarrier, hplayer⟩ hwait hno hmode
  obtain ⟨why, hd⟩ : ∃ why, decode s.openGates.cfg s.openGates.fetchOpcode = .nop why :=
    nop_of_no_row hmode fun row hrow => hno row.1 (List.mem_map_of_mem hrow)
  have hstatus : s.openGates.executedStatus = .executed := if_neg (by rw [State.openGates, hhalted]; decide)
  rw [step_of_nil hscript, cycle_of_running hhalted ((barrierBlocks_eq_false s).mpr hbarrier)
    ((playerOutOfRange_eq_false s).mpr hplayer) hwait, fetchExecute_of_nop hd, hstatus, State.advancePc, add12_eq_ofNat]
  rfl

/-- Settles O1: each word is written out, so the decoder evaluates on it. -/
theorem decodesWrittenOutWords : Obligations.DecodesWrittenOutWords := by
  refine ⟨?_, ?_, ?_, ?_, ?_, ?_, ?_, ?_, ?_⟩ <;> decide

end Sys2Proof
end

section
/-! PROOFS for the cycle family (spec/40_cycle.md): the gates, the key snapshot, the key wait, and the step that executes. -/

namespace Sys2Proof.Machine

/-! ## The halt gate (R101) -/

/-- A state that has reported its halt is a fixed point of every run with nothing pending. -/
theorem run_of_reported_halt {s : State} (h : s.halted = true) (hscript : s.script = []) (k : Nat) :
    Sys2Proof.core.run k (s.report .halted) = .next (s.report .halted) := by
  induction k with
  | zero => rfl
  | succ k ih =>
    have hstep : step (s.report .halted) = .next (s.report .halted) :=
      (step_of_nil (s := s.report .halted) hscript).trans (cycle_of_halted (s := s.report .halted) h)
    rw [run_succ_of_next hstep, ih]

/-- Settles O13: the first halted cycle reports the halt, and every later one leaves that state. -/
theorem haltedMachineStaysAsItIs : Obligations.HaltedMachineStaysAsItIs := by
  refine ⟨fun s inp h => cycle_of_halted (s := { s with inputs := inp }) h, fun s k h hscript => ?_⟩
  have hstep : step s = .next (s.report .halted) := (step_of_nil hscript).trans (cycle_of_halted h)
  rw [run_succ_of_next hstep]
  exact run_of_reported_halt h hscript k

/-! ## The barrier gate (R102) -/

/-- What is left of a cycle past the first two gates. -/
theorem cycle_of_open {s : State} (h : s.halted = false) (hb : s.barrierBlocks = false) :
    cycle s = if s.playerOutOfRange then .fault (.invalidPlayerId s.sourcePlayer)
      else if s.waitingForKey then .next (s.openGates.keyWaitStep.report .blockedKey)
      else fetchExecute s.openGates := by
  rw [cycle, if_neg (by rw [h]; decide), if_neg (by rw [hb]; decide)]

/-- An open gate clears the barrier, so the rest of the cycle does not see whether it was set. -/
theorem cycle_clear_barrier {s : State} (h : s.halted = false) (hb : BarrierOpen s) :
    cycle s = cycle { s with syncBarrier := false } :=
  (cycle_of_open h ((barrierBlocks_eq_false s).mpr hb)).trans
    (cycle_of_open (s := { s with syncBarrier := false }) h rfl).symm

/-- Settles O14: the gate blocks, or it is open for the answer or for want of a coordinator. -/
theorem barrierGate : Obligations.BarrierGate := by
  refine fun s h hset => ⟨fun hc hans => ?_, fun _ hans => ?_, fun hc => ?_⟩
  · exact cycle_of_blocked h (by rw [State.barrierBlocks, hset, hc, hans]; rfl)
  · exact cycle_clear_barrier h fun ⟨_, _, hno⟩ => Bool.noConfusion (hans.symm.trans hno)
  · exact cycle_clear_barrier h fun ⟨_, hyes, _⟩ => Bool.noConfusion (hc.symm.trans hyes)

/-! ## The range check (R103, 60_exceptions.md R222) -/

theorem sourcePlayer_of_coordinator {s : State} (h : s.cfg.coordPresent = true) : s.sourcePlayer = s.activePlayer :=
  if_pos h

/-- The cycle reaches the range check and the id fails it. -/
abbrev FailsRangeCheck (s : State) : Prop :=
  s.halted = false ∧ BarrierOpen s ∧ s.cfg.coordPresent = true ∧ s.activePlayer ≠ 0#4
    ∧ ¬ (1 ≤ s.activePlayer.toNat ∧ s.activePlayer.toNat ≤ s.inputs.playerCount)

theorem playerOutOfRange_eq_true (s : State) : s.playerOutOfRange = true ↔
    s.cfg.coordPresent = true ∧ s.activePlayer ≠ 0#4
      ∧ ¬ (1 ≤ s.activePlayer.toNat ∧ s.activePlayer.toNat ≤ s.inputs.playerCount) := by
  rw [← Bool.not_eq_false, playerOutOfRange_eq_false, Classical.not_imp, Classical.not_imp]

theorem cycle_of_failsRangeCheck {s : State} (h : FailsRangeCheck s) :
    cycle s = .fault (.invalidPlayerId s.activePlayer) := by
  obtain ⟨hh, hb, hc, hplayer⟩ := h
  rw [cycle_of_outOfRange hh ((barrierBlocks_eq_false s).mpr hb) ((playerOutOfRange_eq_true s).mpr ⟨hc, hplayer⟩),
    sourcePlayer_of_coordinator hc]

/-- No other cycle stops. -/
theorem cycle_completes {s : State} (h : ¬ FailsRangeCheck s) : ∃ t, cycle s = .next t := by
  rcases cycle_cases s with ⟨-, hc⟩ | ⟨-, -, hc⟩ | ⟨hh, hb, hp, -⟩ | ⟨-, -, -, -, hc⟩ | ⟨-, -, -, -, hc⟩
  · exact ⟨_, hc⟩
  · exact ⟨_, hc⟩
  · exact absurd ⟨hh, (barrierBlocks_eq_false s).mp hb, (playerOutOfRange_eq_true s).mp hp⟩ h
  · exact ⟨_, hc⟩
  · obtain ⟨u, -, hu⟩ := fetchExecute_completes s.openGates
    exact ⟨_, hc.trans hu⟩

/-- Settles O15: `cycle_of_failsRangeCheck`. -/
theorem outOfRangePlayerFaults : Obligations.OutOfRangePlayerFaults :=
  fun _ h hb hc hplayer hrange => cycle_of_failsRangeCheck ⟨h, hb, hc, hplayer, hrange⟩

theorem cycle_not_refused (s : State) (r : Refusal) : cycle s ≠ .refused r := by
  intro h
  by_cases hs : FailsRangeCheck s
  · cases (cycle_of_failsRangeCheck hs).symm.trans h
  · obtain ⟨t, ht⟩ := cycle_completes hs
    cases ht.symm.trans h

theorem cycle_eq_fault_iff (s : State) (f : Fault) :
    cycle s = .fault f ↔ FailsRangeCheck s ∧ f = .invalidPlayerId s.activePlayer := by
  constructor
  · intro h
    by_cases hs : FailsRangeCheck s
    · exact ⟨hs, (Host.Outcome.fault.inj ((cycle_of_failsRangeCheck hs).symm.trans h)).symm⟩
    · obtain ⟨t, ht⟩ := cycle_completes hs
      cases ht.symm.trans h
  · rintro ⟨hs, rfl⟩
    exact cycle_of_failsRangeCheck hs

/-- A step that samples inputs is a cycle with them. -/
theorem step_of_stepSamples {s : State} {inp : Inputs} (h : StepSamples s inp) :
    ∃ rest, step s = cycle { s with script := rest, inputs := inp } := by
  rcases h with ⟨hs, rfl⟩ | ⟨rest, hs⟩
  · exact ⟨s.script, step_of_nil hs⟩
  · exact ⟨rest, step_of_cons hs⟩

/-- Every other step is an operation that completes. -/
theorem step_completes_of_no_samples {s : State} (h : ∀ inp, ¬ StepSamples s inp) : ∃ t, step s = .next t := by
  cases hs : s.script with
  | nil => exact absurd (.inl ⟨hs, rfl⟩) (h s.inputs)
  | cons op rest =>
    cases op with
    | cycle inp => exact absurd (.inr ⟨rest, hs⟩) (h inp)
    | tick | reset | load | ackDraw => exact ⟨_, step_of_cons hs⟩

/-- Settles O16: a step is a cycle with the inputs it samples, or it completes. -/
theorem stepFaultsOnlyOnInvalidPlayer : Obligations.StepFaultsOnlyOnInvalidPlayer := by
  refine fun s => ⟨fun r hr => ?_, fun f => ⟨fun hf => ?_, ?_⟩⟩
  · by_cases hsam : ∃ inp, StepSamples s inp
    · obtain ⟨inp, hinp⟩ := hsam
      obtain ⟨rest, hstep⟩ := step_of_stepSamples hinp
      exact cycle_not_refused _ r (hstep.symm.trans hr)
    · obtain ⟨t, ht⟩ := step_completes_of_no_samples (not_exists.mp hsam)
      cases ht.symm.trans hr
  · by_cases hsam : ∃ inp, StepSamples s inp
    · obtain ⟨inp, hinp⟩ := hsam
      obtain ⟨rest, hstep⟩ := step_of_stepSamples hinp
      obtain ⟨⟨hh, hb, hc, hplayer, hrange⟩, rfl⟩ := (cycle_eq_fault_iff _ f).mp (hstep.symm.trans hf)
      exact ⟨inp, hinp, hh, hb, hc, hplayer, hrange, rfl⟩
    · obtain ⟨t, ht⟩ := step_completes_of_no_samples (not_exists.mp hsam)
      cases ht.symm.trans hf
  · rintro ⟨inp, hinp, hh, hb, hc, hplayer, hrange, rfl⟩
    obtain ⟨rest, hstep⟩ := step_of_stepSamples hinp
    exact hstep.trans (cycle_of_failsRangeCheck ⟨hh, hb, hc, hplayer, hrange⟩)

/-! ## The key snapshot (R103, R104) -/

theorem sourceKeys_of_coordinator {s : State} (h : s.cfg.coordPresent = true) :
    s.sourceKeys = s.inputs.keys[s.activePlayer.toNat]'s.activePlayer.isLt := by
  simp only [State.sourceKeys, sourcePlayer_of_coordinator h]

theorem sourceKeys_of_no_coordinator {s : State} (h : s.cfg.coordPresent = false) :
    s.sourceKeys = s.inputs.keys[0] := by
  have hplayer : s.sourcePlayer = 0#4 := if_neg (by rw [h]; decide)
  simp only [State.sourceKeys, hplayer]
  rfl

theorem State.keyWaitStep_keyState (s : State) : s.keyWaitStep.keyState = s.keyState := by rw [s.keyWaitStep_eq]

theorem fetchExecute_keyState {s t : State} (h : fetchExecute s = .next t) : t.keyState = s.keyState := by
  obtain ⟨u, hu, hfe⟩ := fetchExecute_completes s
  obtain rfl := Host.Outcome.next.inj (hfe.symm.trans h)
  cases hd : decode s.cfg s.fetchOpcode with
  | instr i =>
    rw [hd] at hu
    obtain ⟨hkeys, -⟩ := noInstructionWritesTheHostSide _ _ _ hu
    exact hkeys
  | nop why =>
    rw [hd] at hu
    obtain rfl := Host.Outcome.next.inj hu
    rfl

theorem cycle_refreshes_keyState {s t : State} (hh : s.halted = false) (hb : BarrierOpen s) (h : cycle s = .next t) :
    t.keyState = s.sourceKeys := by
  have hb' := (barrierBlocks_eq_false s).mpr hb
  rcases cycle_cases s with ⟨hh', -⟩ | ⟨-, hb'', -⟩ | ⟨-, -, -, hc⟩ | ⟨-, -, -, -, hc⟩ | ⟨-, -, -, -, hc⟩
  · cases hh.symm.trans hh'
  · cases hb'.symm.trans hb''
  · cases hc.symm.trans h
  · obtain rfl := Host.Outcome.next.inj (hc.symm.trans h)
    exact s.openGates.keyWaitStep_keyState
  · exact fetchExecute_keyState (hc.symm.trans h)

/-- Settles O17: neither the key wait nor an instruction writes the snapshot that the gates refresh. -/
theorem cycleRefreshesTheKeySnapshot : Obligations.CycleRefreshesTheKeySnapshot := by
  intro s t hh hb h k
  rw [cycle_refreshes_keyState hh hb h]
  exact ⟨fun hc => by rw [sourceKeys_of_coordinator hc], fun hc => by rw [sourceKeys_of_no_coordinator hc]⟩

/-! ## The key wait (R105 to R108) -/

theorem cycle_of_passes_waiting {s : State} (h : PassesGates s) (hw : s.waitingForKey = true) :
    cycle s = .next (s.openGates.keyWaitStep.report .blockedKey) := by
  obtain ⟨hhalted, hbarrier, hplayer⟩ := h
  exact cycle_of_waiting hhalted ((barrierBlocks_eq_false s).mpr hbarrier) ((playerOutOfRange_eq_false s).mpr hplayer) hw

theorem keyWaitStep_of_press {s : State} (hp : s.waitingPhase = .press) : s.keyWaitStep = s.keyPress := by
  rw [State.keyWaitStep, hp]

theorem keyWaitStep_of_release {s : State} (hp : s.waitingPhase = .release) : s.keyWaitStep = s.keyRelease := by
  rw [State.keyWaitStep, hp]

theorem keyPress_of_lowest {s : State} {k : BitVec 4} (hk : keyAt s.keyState k = true)
    (hlow : ∀ j : BitVec 4, j < k → keyAt s.keyState j = false) :
    s.keyPress = { s with waitingTrackedKey := k, waitingPhase := .release } := by
  rw [State.keyPress, (lowestPressed_eq_some _ k).mpr ⟨hk, hlow⟩]

theorem keyPress_of_none {s : State} (h : ∀ k : BitVec 4, keyAt s.keyState k = false) : s.keyPress = s := by
  rw [State.keyPress, (lowestPressed_eq_none _).mpr h]

theorem keyRelease_of_held {s : State} (h : keyAt s.keyState s.waitingTrackedKey = true) : s.keyRelease = s :=
  if_pos h

theorem keyRelease_of_released {s : State} (h : keyAt s.keyState s.waitingTrackedKey = false) :
    s.keyRelease = { s.setReg s.waitingTargetRegister (s.waitingTrackedKey.setWidth 8) with
      waitingForKey := false, waitingPhase := .press } :=
  if_neg (by rw [h]; decide)

/-- Settles O18: the press phase looks only at the refreshed snapshot's lowest pressed key. -/
theorem keyWaitPressPhase : Obligations.KeyWaitPressPhase := by
  intro s hs hw hp
  rw [cycle_of_passes_waiting hs hw, keyWaitStep_of_press (s := s.openGates) hp]
  refine ⟨fun k hk hlow => ?_, fun hnone => ?_⟩
  · rw [keyPress_of_lowest (s := s.openGates) hk hlow]; rfl
  · rw [keyPress_of_none (s := s.openGates) hnone]; rfl

/-- Settles O19: a held tracked key leaves the wait, a released one writes its number to the target register. -/
theorem keyWaitReleasePhase : Obligations.KeyWaitReleasePhase := by
  intro s hs hw hp
  rw [cycle_of_passes_waiting hs hw, keyWaitStep_of_release (s := s.openGates) hp]
  refine ⟨fun hheld => ?_, fun hfree => ?_⟩
  · rw [keyRelease_of_held (s := s.openGates) hheld]; rfl
  · rw [keyRelease_of_released (s := s.openGates) hfree]
    refine ⟨_, rfl, ?_, fun r hr => ?_, fun _ => rfl, rfl⟩
    · have hreg := s.reg_setReg_same s.waitingTargetRegister (s.waitingTrackedKey.setWidth 8)
      exact (congrArg BitVec.toNat hreg).trans (BitVec.toNat_setWidth_of_le (by decide))
    · have hreg := s.reg_setReg s.waitingTargetRegister r (s.waitingTrackedKey.setWidth 8)
      exact hreg.trans (if_neg fun h => hr (List.mem_singleton.mpr h))

/-- Settles O20, by induction on the cycles: each leaves the wait as it was, so the next finds the same one. -/
theorem heldTrackedKeyNeverCompletesTheWait : Obligations.HeldTrackedKeyNeverCompletesTheWait := by
  intro inps
  induction inps with
  | nil => exact fun s _ _ hw hp _ _ => ⟨s, rfl, hw, hp, rfl, rfl, rfl, fun _ => rfl⟩
  | cons inp rest ih =>
    intro s hh hb hw hp hscript hall
    obtain ⟨hrange, hheld⟩ := hall inp List.mem_cons_self
    have hgates : PassesGates { s with script := rest.map .cycle, inputs := inp } :=
      ⟨hh, fun ⟨hset, _⟩ => Bool.noConfusion (hb.symm.trans hset), hrange⟩
    have hstep : step s = .next { s with
        script := rest.map .cycle, inputs := inp, syncBarrier := false,
        keyState := State.sourceKeys { s with inputs := inp }, status := .blockedKey } :=
      (step_of_cons hscript).trans ((keyWaitReleasePhase _ hgates hw hp).1 hheld)
    rw [List.length_cons, run_succ_of_next hstep]
    exact ih _ hh rfl hw hp rfl fun inp' hinp' => hall inp' (List.mem_cons_of_mem _ hinp')

/-! ## Fetch and execute (R110 to R112) -/

/-- Settles O10: past the gates a step is the fetch half of a cycle. -/
theorem stepRunsTheDecodedInstruction : Obligations.StepRunsTheDecodedInstruction := by
  rintro s i hscript ⟨hhalted, hbarrier, hplayer⟩ hwait hd u hu
  have hfetch : s.openGates.fetchOpcode
      = s.readByte s.pc ++ s.readByte (BitVec.ofNat 16 ((s.pc.toNat + 1) % 4096)) :=
    congrArg (fun a => s.readByte s.pc ++ s.readByte a) (add12_eq_ofNat s.pc 1#16)
  have hadvance : s.openGates.advancePc = { s with
      syncBarrier := false, keyState := s.sourceKeys, pc := BitVec.ofNat 16 ((s.pc.toNat + 2) % 4096) } :=
    congrArg s.openGates.setPc (add12_eq_ofNat s.pc 2#16)
  rw [step_of_nil hscript, cycle_of_running hhalted ((barrierBlocks_eq_false s).mpr hbarrier)
    ((playerOutOfRange_eq_false s).mpr hplayer) hwait]
  exact fetchExecute_of_instr (s := s.openGates) (by rw [hfetch]; exact hd) (by rw [hadvance]; exact hu)

end Sys2Proof.Machine
end

section
/-! PROOFS for the flow family (spec/41_flow.md): clear, return, call and the jumps, and the two stack errors. -/

namespace Sys2Proof.Machine

/-! ## Clear (R130) -/

@[simp] theorem pixelOf_nil (col row : Nat) : pixelOf [] col row = 0#8 := rfl

/-- The pixel sink draws the events in order, so the newest one has the last word. -/
@[simp] theorem State.sinkSurface_emit (s : State) (e : Event) :
    (s.emit e).sinkSurface = surfaceAfter s.sinkSurface e := by
  simp [State.sinkSurface]

/-- Settles O37: the display and, after the event, the sink's surface are the blank one. -/
theorem clsResult : Obligations.ClsResult := by
  intro s
  refine ⟨_, rfl, fun col row _ _ => pixelOf_nil col row, rfl, fun _ _ => rfl, fun _ => rfl, fun col row => ?_⟩
  rw [State.sinkSurface_emit]
  rfl

/-! ## Return (R131) -/

theorem exec_ret_of_nonempty {s : State} (h : 0 < s.sp.val) :
    exec .ret s = .next (s.dropTop.setPc (wrap12 (s.top h))) := dif_pos h

theorem exec_ret_of_empty {s : State} (h : s.sp.val = 0) : exec .ret s = .next s.halt :=
  dif_neg (Nat.not_lt.mpr h.le)

/-- Settles O38: a return pops where the stack has an entry, and halts where it has none. -/
theorem retPopsOrHalts : Obligations.RetPopsOrHalts :=
  fun _ => ⟨fun h => ⟨_, exec_ret_of_nonempty h, rfl, wrap12_toNat _, rfl, fun _ _ => rfl, fun _ => rfl⟩,
    exec_ret_of_empty⟩

/-! ## Call (R133) -/

theorem exec_call_of_room {s : State} (nnn : Addr) (h : s.sp.val < 16) :
    exec (.call nnn) s = .next ((s.push s.pc h).setPc (addrOperand nnn)) := dif_pos h

theorem exec_call_of_full {s : State} (nnn : Addr) (h : s.sp.val = 16) : exec (.call nnn) s = .next s.halt :=
  dif_neg (Nat.not_lt.mpr h.ge)

theorem State.push_stack_at_sp (s : State) (a : Word) (h : s.sp.val < 16) : (s.push a h).stack[s.sp.val] = a :=
  Vector.getElem_set_self h

theorem State.push_stack_of_ne (s : State) (a : Word) (h : s.sp.val < 16) {k : Nat} (hk : k < 16)
    (hne : k ≠ s.sp.val) : (s.push a h).stack[k] = s.stack[k] :=
  Vector.getElem_set_ne h hk hne.symm

/-- Settles O39: a call pushes where the stack has room, and halts where it has none. -/
theorem callPushesOrHalts : Obligations.CallPushesOrHalts := by
  refine fun s nnn => ⟨fun h => ⟨_, exec_call_of_room nnn h, rfl, ?_, fun k hk hne => ?_, addrOperand_toNat nnn, rfl,
    fun _ _ => rfl, fun _ => rfl⟩, exec_call_of_full nnn⟩
  · exact s.push_stack_at_sp s.pc h
  · exact s.push_stack_of_ne s.pc h hk hne

/-! ## Jumps (R132, R135) -/

theorem State.setPc_onlyPc (s : State) (a : Word) : OnlyPc s (s.setPc a) := ⟨rfl, fun _ => rfl, fun _ _ => rfl⟩

/-- The target of BNNN: the base plus `V[0]`, mod 4096. -/
theorem jumpOffset_toNat (nnn : Addr) (b : Byte) :
    (add12 (addrOperand nnn) (offsetOperand b)).toNat = (nnn.toNat + b.toNat) % 4096 := by
  rw [add12_toNat, addrOperand_toNat, offsetOperand_toNat]

/-- Settles O41: both jumps are a write of `pc`. -/
theorem jumpTargets : Obligations.JumpTargets :=
  fun s nnn => ⟨⟨_, rfl, addrOperand_toNat nnn, s.setPc_onlyPc _⟩, ⟨_, rfl, jumpOffset_toNat nnn _, s.setPc_onlyPc _⟩⟩

end Sys2Proof.Machine
end

section
/-! PROOFS for the skip family (spec/42_skip.md): every skip completes, and only its condition decides `pc`. -/

namespace Sys2Proof.Machine

/-! ## Skip (R140) -/

theorem State.skipIf_onlyPc (s : State) (c : Bool) : OnlyPc s (s.skipIf c) := by
  rw [s.skipIf_eq c]
  exact s.setPc_onlyPc _

/-- The model's skip is that of R140, so an instruction that ends in it settles its clause. -/
theorem exec_skipsExactlyIf {i : Instr} {s : State} {b c : Bool} (h : exec i s = .next (s.skipIf b)) (hbc : b = c) :
    ∃ t, exec i s = .next t ∧ SkipsExactlyIf c s t :=
  ⟨s.skipIf c, hbc ▸ h, s.skipIf_pc_toNat c, s.skipIf_onlyPc c⟩

/-! ## Comparisons (R141 to R144) -/

theorem byte_bne_eq_decide (a b : Byte) : (a != b) = decide (a ≠ b) := by
  rw [bne, beq_eq_decide, ← decide_not]

/-- Settles O42: each ends in a skip on its comparison with the immediate. -/
theorem immediateSkips : Obligations.ImmediateSkips :=
  fun _ _ _ => ⟨exec_skipsExactlyIf rfl (beq_eq_decide _ _), exec_skipsExactlyIf rfl (byte_bne_eq_decide _ _)⟩

/-- Settles O43: each ends in a skip on its comparison of the two registers. -/
theorem registerSkips : Obligations.RegisterSkips :=
  fun _ _ _ => ⟨exec_skipsExactlyIf rfl (beq_eq_decide _ _), exec_skipsExactlyIf rfl (byte_bne_eq_decide _ _)⟩

/-! ## Keys (R145 to R147) -/

/-- The low four bits of a byte name the key of its value mod 16. -/
theorem keyAt_setWidth (keys : Keys) (b : Byte) :
    keyAt keys (b.setWidth 4) = keys[b.toNat % 16]'(Nat.mod_lt _ (by decide)) := by
  simp only [keyAt, BitVec.toNat_setWidth, Nat.reducePow]

/-- Under mask, and for a value up to 15 under both modes, a byte names a key. -/
theorem State.keyPressed_of_names_key {s : State} {b : Byte} (h : s.cfg.keyIndexMode = .mask ∨ b.toNat ≤ 15) :
    s.keyPressed b = s.keyState[b.toNat % 16]'(Nat.mod_lt _ (by decide)) := by
  rw [← keyAt_setWidth, State.keyPressed]
  cases hm : s.cfg.keyIndexMode with
  | mask => rfl
  | oorReleased =>
    have hb : b.toNat ≤ 15 := h.resolve_left (by rw [hm]; decide)
    simp only [hb, decide_true, Bool.true_and]

/-- Under oorReleased a larger value names none, and reads as not pressed. -/
theorem State.keyPressed_of_outOfRange {s : State} {b : Byte} (hm : s.cfg.keyIndexMode = .oorReleased)
    (hb : 15 < b.toNat) : s.keyPressed b = false := by
  simp only [State.keyPressed, hm, Nat.not_le.mpr hb, decide_false, Bool.false_and]

/-- The two cases of R147 leave no third. -/
theorem State.keyPressed_eq {s : State} {b : Byte} {pressed : Bool}
    (hkey : s.cfg.keyIndexMode = .mask ∨ b.toNat ≤ 15 →
      pressed = s.keyState[b.toNat % 16]'(Nat.mod_lt _ (by decide)))
    (hout : s.cfg.keyIndexMode = .oorReleased ∧ 15 < b.toNat → pressed = false) : s.keyPressed b = pressed := by
  by_cases hb : b.toNat ≤ 15
  · rw [keyPressed_of_names_key (.inr hb), hkey (.inr hb)]
  · cases hm : s.cfg.keyIndexMode with
    | mask => rw [keyPressed_of_names_key (.inl hm), hkey (.inl hm)]
    | oorReleased => rw [keyPressed_of_outOfRange hm (Nat.not_le.mp hb), hout ⟨hm, Nat.not_le.mp hb⟩]

/-- Settles O44: each ends in a skip on the key test, which gives the state of the key in the snapshot. -/
theorem keySkips : Obligations.KeySkips := by
  intro s x pressed hkey hout
  have hpressed : s.keyPressed (s.reg x) = pressed := State.keyPressed_eq hkey hout
  exact ⟨exec_skipsExactlyIf rfl hpressed, exec_skipsExactlyIf rfl (congrArg not hpressed)⟩

end Sys2Proof.Machine
end

section
/-! PROOFS for the ALU family (spec/43_alu.md). Three writes carry the family: a register alone, a result with VF reset, and
a result with a flag. Each is shown once to keep to its claim; an instruction then owes only its arithmetic. -/

namespace Sys2Proof.Machine

/-! ## The three writes (R150) -/

theorem State.setReg_writesReg (s : State) (x : Reg) (r : Byte) : WritesReg x r s (s.setReg x r) := by
  refine ⟨s.reg_setReg_same x r, rfl, fun _ => rfl, fun q hq => ?_⟩
  rw [s.reg_setReg, if_neg (List.mem_singleton.not.mp hq)]

theorem State.writeLogic_onlyRegs (s : State) (x : Reg) (r : Byte) : OnlyRegs [x, VF] s (s.writeLogic x r) := by
  refine ⟨s.writeLogic_eq x r, fun _ => rfl, fun q hq => ?_⟩
  obtain ⟨hx, hVF⟩ : q ≠ x ∧ q ≠ VF := by simpa using hq
  rw [s.reg_writeLogic, if_neg hVF, if_neg hx]

theorem State.writeLogic_writesLogic (s : State) (x : Reg) (r : Byte) : WritesLogic x r s (s.writeLogic x r) := by
  refine ⟨fun hx => ?_, ?_, s.writeLogic_onlyRegs x r⟩
  · rw [s.reg_writeLogic, if_neg hx, if_pos rfl]
  · rw [s.reg_writeLogic, if_pos rfl]

theorem State.write8_onlyRegs (s : State) (x : Reg) (r : Byte) (f : Bool) : OnlyRegs [x, VF] s (s.write8 x r f) := by
  refine ⟨s.write8_eq x r f, fun a => by rw [s.write8_eq]; rfl, fun q hq => ?_⟩
  obtain ⟨hx, hVF⟩ : q ≠ x ∧ q ≠ VF := by simpa using hq
  rw [s.reg_write8, if_neg fun h => hVF h.1, if_neg hx]

theorem State.write8_writesResultAndFlag (s : State) (x : Reg) (r : Byte) (f : Bool) :
    WritesResultAndFlag x r (flagByte f) s (s.write8 x r f) := by
  refine ⟨fun hx => ⟨?_, ?_⟩, ?_, s.write8_onlyRegs x r f⟩
  · rw [s.reg_write8, if_neg fun h => hx h.1, if_pos rfl]
  · rw [s.reg_write8, if_pos ⟨rfl, .inr hx⟩]
  · rintro rfl
    simp [s.reg_write8]

/-- An instruction that ends in `Write8` settles its clause once its result and its flag are the claimed ones. -/
theorem exec_writesResultAndFlag {i : Instr} {s : State} {x : Reg} {r r' fb : Byte} {f : Bool}
    (h : exec i s = .next (s.write8 x r f)) (hr : r = r') (hf : flagByte f = fb) :
    ∃ t, exec i s = .next t ∧ WritesResultAndFlag x r' fb s t :=
  ⟨_, h, hr ▸ hf ▸ s.write8_writesResultAndFlag x r f⟩

/-! ## Loads and immediate add (R151 to R153) -/

theorem byte_add_eq_ofNat (a b : Byte) : a + b = BitVec.ofNat 8 ((a.toNat + b.toNat) % 256) :=
  BitVec.eq_of_toNat_eq (by simp)

/-- Settles O45: each of the three is a write of one register. -/
theorem loadsAndImmediateAdd : Obligations.LoadsAndImmediateAdd :=
  fun s x _ kk => ⟨⟨_, rfl, s.setReg_writesReg x kk⟩,
    ⟨_, rfl, byte_add_eq_ofNat (s.reg x) kk ▸ s.setReg_writesReg x _⟩, ⟨_, rfl, s.setReg_writesReg x _⟩⟩

/-! ## Logic (R154 to R156) -/

/-- Settles O46: each of the three ends in the write that resets VF last. -/
theorem logicResetsVF : Obligations.LogicResetsVF :=
  fun s x _ => ⟨⟨_, rfl, s.writeLogic_writesLogic x _⟩, ⟨_, rfl, s.writeLogic_writesLogic x _⟩,
    ⟨_, rfl, s.writeLogic_writesLogic x _⟩⟩

/-! ## Addition and subtraction (R157, R158, R160) -/

/-- The carry and the not-borrow compare numbers, so their flag byte is a choice on that comparison. -/
theorem flagByte_decide (p : Prop) [Decidable p] : flagByte (decide p) = if p then 1#8 else 0#8 := by
  simp only [flagByte, decide_eq_true_eq]

theorem byte_sub_eq_ofNat (a b : Byte) : a - b = BitVec.ofNat 8 ((256 + a.toNat - b.toNat) % 256) := by
  apply BitVec.eq_of_toNat_eq
  rw [BitVec.toNat_sub, BitVec.toNat_ofNat]
  omega

/-- Settles O47: byte arithmetic wraps as the claim's numbers do, and each flag is its comparison of them. -/
theorem addAndSubtract : Obligations.AddAndSubtract := by
  rintro s x y _ _ rfl rfl
  exact ⟨exec_writesResultAndFlag rfl (byte_add_eq_ofNat _ _) (flagByte_decide _),
    exec_writesResultAndFlag rfl (byte_sub_eq_ofNat _ _) (flagByte_decide _),
    exec_writesResultAndFlag rfl (byte_sub_eq_ofNat _ _) (flagByte_decide _)⟩

/-! ## Shifts (R159, R161) -/

theorem byte_ushiftRight_one_eq_ofNat (b : Byte) : b >>> 1 = BitVec.ofNat 8 (b.toNat / 2) := by
  apply BitVec.eq_of_toNat_eq
  rw [BitVec.toNat_ushiftRight, Nat.shiftRight_one, BitVec.toNat_ofNat]
  omega

theorem byte_shiftLeft_one_eq_ofNat (b : Byte) : b <<< 1 = BitVec.ofNat 8 (b.toNat * 2 % 256) := by
  apply BitVec.eq_of_toNat_eq
  rw [BitVec.toNat_shiftLeft, Nat.shiftLeft_eq, BitVec.toNat_ofNat]
  omega

/-- A bit as a flag byte is its binary digit. -/
theorem flagByte_getLsbD (b : Byte) (k : Nat) :
    flagByte (b.getLsbD k) = BitVec.ofNat 8 (b.toNat / 2 ^ k % 2) := by
  rw [BitVec.getLsbD, Nat.testBit_eq_decide_div_mod_eq, flagByte_decide]
  rcases Nat.mod_two_eq_zero_or_one (b.toNat / 2 ^ k) with h | h <;> rw [h] <;> rfl

theorem flagByte_shiftedOutRight (b : Byte) : flagByte (shiftedOutRight b) = BitVec.ofNat 8 (b.toNat % 2) := by
  rw [shiftedOutRight, flagByte_getLsbD, Nat.pow_zero, Nat.div_one]

/-- Bit 7 is a byte's topmost digit, so nothing is left above it. -/
theorem flagByte_shiftedOutLeft (b : Byte) : flagByte (shiftedOutLeft b) = BitVec.ofNat 8 (b.toNat / 128) := by
  have hb : b.toNat / 128 < 2 := by omega
  exact (flagByte_getLsbD b 7).trans (congrArg _ (Nat.mod_eq_of_lt hb))

/-- Settles O48: a shift by one is a halving or a doubling of `V[y]`, and its flag is the digit that falls out. -/
theorem shiftsReadTheSecondOperand : Obligations.ShiftsReadTheSecondOperand := by
  rintro s x y _ rfl
  exact ⟨exec_writesResultAndFlag rfl (byte_ushiftRight_one_eq_ofNat _) (flagByte_shiftedOutRight _),
    exec_writesResultAndFlag rfl (byte_shiftLeft_one_eq_ofNat _) (flagByte_shiftedOutLeft _)⟩

end Sys2Proof.Machine
end

section
/-! PROOFS for the index, random and draw family (spec/44_index_random_draw.md): the writes of `I`, the one step of the
generator, and what a draw leaves in the display, in VF and in the pixel sink. -/

namespace Sys2Proof.Machine

/-! ## Index (R170, 45_fx.md R194, R195) -/

theorem State.setIndex_onlyIndex (s : State) (a : Word) : OnlyIndex s (s.setIndex a) :=
  ⟨rfl, fun _ => rfl, fun _ _ => rfl⟩

/-- The sum of FX1E: the index plus `V[x]`, mod 4096. -/
theorem indexOffset_toNat (a : Word) (b : Byte) : (add12 a (offsetOperand b)).toNat = (a.toNat + b.toNat) % 4096 := by
  rw [add12_toNat, offsetOperand_toNat]

theorem glyphAddress_toNat (l : Layout) (b : Byte) :
    (glyphAddress l b).toNat = (l.fontBase + 5 * (b.toNat % 16)) % 4096 := by
  rw [glyphAddress, wrap12_toNat, BitVec.toNat_ofNat, Nat.mod_mod_of_dvd _ (by decide)]

/-- Settles O49: each of the three is a write of `I`. -/
theorem indexLoads : Obligations.IndexLoads :=
  fun s nnn _ => ⟨⟨_, rfl, addrOperand_toNat nnn, s.setIndex_onlyIndex _⟩,
    ⟨_, rfl, indexOffset_toNat _ _, s.setIndex_onlyIndex _⟩, ⟨_, rfl, glyphAddress_toNat _ _, s.setIndex_onlyIndex _⟩⟩

/-! ## Random (R171, R172) -/

/-- Settles O28: only the frame of CXKK has the generator in it, and its meaning steps it once. -/
theorem onlyRndAdvancesTheGenerator : Obligations.OnlyRndAdvancesTheGenerator := by
  intro i s t h
  refine ⟨fun hi => ?_, ?_⟩
  · cases exec_frame h with
    | random x kk => exact absurd rfl (hi x kk)
    | _ => rfl
  · rintro x kk rfl
    cases h
    rfl

theorem prngOutput_of_bits {cfg : Config} {lo : Nat} (h : cfg.prngMap = .bits lo) (r : Nat) :
    prngOutput cfg r = BitVec.ofNat 8 (r / 2 ^ lo % 256) := by
  apply BitVec.eq_of_toNat_eq
  simp [prngOutput, h]

theorem prngOutput_of_unknown {cfg : Config} {id : Nat} (h : cfg.prngMap = .unknown id) (r : Nat) :
    prngOutput cfg r = Config.unknownPrngMap id r := by
  simp only [prngOutput, h]

/-- Settles O50: after the generator's step, CXKK is a write of one register. -/
theorem rndResult : Obligations.RndResult := by
  rintro s x kk r rfl
  obtain ⟨hreg, -, hmem, hregs⟩ := State.setReg_writesReg { s with rng := prngStep s.cfg s.rng } x
    (prngOutput s.cfg (prngStep s.cfg s.rng) &&& kk)
  refine ⟨_, rfl, rfl, fun lo hlo => ?_, fun id hid => ?_, rfl, hregs, hmem⟩
  · exact hreg.trans (congrArg (· &&& kk) (prngOutput_of_bits hlo _))
  · exact hreg.trans (congrArg (· &&& kk) (prngOutput_of_unknown hid _))

/-! ## Draw (R173 to R175) -/

/-- The sprite's row as the claims write its address. -/
theorem State.spriteByte_eq (s : State) (r : Nat) :
    s.spriteByte r = s.readByte (BitVec.ofNat 16 ((s.index.toNat + r) % 4096)) := by
  refine s.readByte_congr ?_
  simp only [add12_toNat, BitVec.toNat_ofNat]
  omega

/-- The claims' sprite is the one the model draws. -/
theorem spriteSets_iff (s : State) (x0 y0 n col row : Nat) :
    SpriteSets s x0 y0 n col row ↔ spriteCovers s.spriteByte x0 y0 n col row := by
  simp only [SpriteSets, spriteCovers, State.spriteByte_eq]
  exact ⟨fun ⟨hl, hr, ht, hb, hbit⟩ => ⟨ht, hb, hl, hr, hbit⟩, fun ⟨ht, hb, hl, hr, hbit⟩ => ⟨hl, hr, ht, hb, hbit⟩⟩

/-- The draw of DXYN, which gives the instruction its display and its collision. -/
def State.drawOf (s : State) (x y : Reg) (n : BitVec 4) : DrawState :=
  drawSprite s.display (drawColumn (s.reg x)) (drawRowOf (s.reg y)) s.spriteByte n.toNat

theorem exec_drw_eq (s : State) (x y : Reg) (n : BitVec 4) :
    exec (.drw x y n) s = .next ((State.setReg { s with display := (s.drawOf x y n).display, drawFlag := true } VF
      (flagByte (s.drawOf x y n).collision)).emit (.surfaceUpdate (s.drawOf x y n).display)) := rfl

theorem State.drawOf_pixel (s : State) (x y : Reg) (n : BitVec 4) {col row : Nat} (hc : col < 64) (hr : row < 32) :
    (SpriteSets s ((s.reg x).toNat % 64) ((s.reg y).toNat % 32) n.toNat col row →
      pixelOf (s.drawOf x y n).display col row = s.pixel col row ^^^ 1#8)
    ∧ (¬ SpriteSets s ((s.reg x).toNat % 64) ((s.reg y).toNat % 32) n.toNat col row →
      pixelOf (s.drawOf x y n).display col row = s.pixel col row) := by
  rw [spriteSets_iff]
  exact (drawSprite_spec s.display _ _ s.spriteByte n.toNat).1 col row hc hr

theorem State.drawOf_collision (s : State) (x y : Reg) (n : BitVec 4) :
    (s.drawOf x y n).collision = true ↔ SpriteCollides s ((s.reg x).toNat % 64) ((s.reg y).toNat % 32) n.toNat := by
  simp only [SpriteCollides, spriteSets_iff]
  exact (drawSprite_spec s.display _ _ s.spriteByte n.toNat).2

/-- Settles O51: display and VF are those of the draw, and the event hands the display to the sink. -/
theorem drwResult : Obligations.DrwResult := by
  rintro s x y n _ _ rfl rfl
  obtain ⟨hVF, -, hmem, hregs⟩ := State.setReg_writesReg
    { s with display := (s.drawOf x y n).display, drawFlag := true } VF (flagByte (s.drawOf x y n).collision)
  refine ⟨_, exec_drw_eq s x y n, fun col row hc hr => s.drawOf_pixel x y n hc hr, fun hcol => ?_, fun hcol => ?_, rfl,
    hregs, hmem, fun col row => ?_⟩
  · exact hVF.trans (if_pos ((s.drawOf_collision x y n).mpr hcol))
  · exact hVF.trans (if_neg (mt (s.drawOf_collision x y n).mp hcol))
  · rw [State.sinkSurface_emit]
    rfl

/-- A sprite is its bytes from `I` on, whatever else differs. -/
theorem spriteSets_congr {s t : State} (hindex : t.index = s.index) (hmem : MemSame s t) (x0 y0 n col row : Nat) :
    SpriteSets t x0 y0 n col row ↔ SpriteSets s x0 y0 n col row := by
  rw [SpriteSets, SpriteSets, hindex, hmem]

/-- Settles O52: a draw keeps `I` and memory, so the second one has the same sprite, and a pixel toggled twice is
itself again. -/
theorem drawingTwiceRestoresTheDisplay : Obligations.DrawingTwiceRestoresTheDisplay := by
  intro s t u x y n hx hy hst htu
  obtain ⟨t', ht', hpix, -, -, hframe, -, hmem, -⟩ := drwResult s x y n _ _ rfl rfl
  obtain rfl := Host.Outcome.next.inj (ht'.symm.trans hst)
  obtain ⟨u', hu', hpix', hhit, hmiss, -⟩ := drwResult t' x y n _ _ hx.symm hy.symm
  obtain rfl := Host.Outcome.next.inj (hu'.symm.trans htu)
  have hsame := spriteSets_congr (congrArg State.index hframe) hmem ((s.reg x).toNat % 64) ((s.reg y).toNat % 32) n.toNat
  refine ⟨fun col row hc hr => ?_, fun hflag => ?_, hhit⟩
  · obtain ⟨hset, hkeep⟩ := hpix col row hc hr
    obtain ⟨hset', hkeep'⟩ := hpix' col row hc hr
    by_cases h : SpriteSets s ((s.reg x).toNat % 64) ((s.reg y).toNat % 32) n.toNat col row
    · rw [hset' ((hsame col row).mpr h), hset h, BitVec.xor_assoc, BitVec.xor_self, BitVec.xor_zero]
    · rw [hkeep' (mt (hsame col row).mp h), hkeep h]
  · by_contra hcol
    exact absurd (hflag.symm.trans (hmiss hcol)) (by decide)

end Sys2Proof.Machine
end

section
/-! PROOFS for the group F family (spec/45_fx.md): the timers, the key wait's arming, the decimal store and the two bulk
transfers. The last three need only what memory or a register reads as after the whole instruction. -/

namespace Sys2Proof.Machine

/-! ## Timers (R190, R192, R193) -/

theorem exec_ldSTVx_of_zero {s : State} {x : Reg} (h : s.reg x = 0#8) :
    exec (.ldSTVx x) s = .next { s with soundTimer := s.reg x } := if_pos h

theorem exec_ldSTVx_of_nonzero {s : State} {x : Reg} (h : s.reg x ≠ 0#8) :
    exec (.ldSTVx x) s = .next (State.emit { s with soundTimer := s.reg x } .toneStart) := if_neg h

/-- FX18 in one equation, with the tone's start as the claim writes it. -/
theorem exec_ldSTVx_eq (s : State) (x : Reg) :
    exec (.ldSTVx x) s = .next { s with
      soundTimer := s.reg x, events := s.events ++ (if (s.reg x).toNat = 0 then [] else [.toneStart]) } := by
  by_cases h : s.reg x = 0#8
  · have htoNat : (s.reg x).toNat = 0 := congrArg BitVec.toNat h
    rw [exec_ldSTVx_of_zero h, if_pos htoNat, List.append_nil]
  · have htoNat : (s.reg x).toNat ≠ 0 := fun h0 => h (BitVec.eq_of_toNat_eq h0)
    rw [exec_ldSTVx_of_nonzero h, if_neg htoNat]
    rfl

/-- Settles O53: FX07 is a write of one register, FX15 one of the delay timer, and FX18 emits past its zero test. -/
theorem timerInstructions : Obligations.TimerInstructions :=
  fun s x => ⟨⟨_, rfl, s.setReg_writesReg x s.delayTimer⟩, ⟨_, rfl, rfl, fun _ _ => rfl, fun _ => rfl⟩,
    ⟨_, exec_ldSTVx_eq s x, rfl, fun _ _ => rfl, fun _ => rfl⟩⟩

/-! ## The key wait (R191) -/

/-- Settles O54: the three fields of the wait are all that FX0A writes. -/
theorem keyWaitIsArmed : Obligations.KeyWaitIsArmed :=
  fun _ _ => ⟨_, rfl, rfl, rfl, rfl, rfl, fun _ _ => rfl, fun _ => rfl⟩

/-! ## The decimal store (R196) -/

@[simp] theorem bcdHundreds_toNat (b : Byte) : (bcdHundreds b).toNat = b.toNat / 100 := by
  rw [bcdHundreds, BitVec.toNat_ofNat]
  omega

@[simp] theorem bcdTens_toNat (b : Byte) : (bcdTens b).toNat = b.toNat / 10 % 10 := by
  rw [bcdTens, BitVec.toNat_ofNat]
  omega

@[simp] theorem bcdOnes_toNat (b : Byte) : (bcdOnes b).toNat = b.toNat % 10 := by
  rw [bcdOnes, BitVec.toNat_ofNat]
  omega

/-- The three writes of FX33. -/
def State.storeDecimals (s : State) (b : Byte) : State :=
  ((s.writeByte s.index (bcdHundreds b)).writeByte (add12 s.index 1#16) (bcdTens b)).writeByte (add12 s.index 2#16)
    (bcdOnes b)

theorem exec_ldB_eq (s : State) (x : Reg) : exec (.ldB x) s = .next (s.storeDecimals (s.reg x)) := rfl

/-- What memory reads after FX33: the last write to an address has the word, and an address of none reads as before. -/
theorem State.storeDecimals_readByte (s : State) (b : Byte) (a : Word) :
    (s.storeDecimals b).readByte a
      = if a.toNat % 4096 = (s.index.toNat + 2) % 4096 then bcdOnes b
        else if a.toNat % 4096 = (s.index.toNat + 1) % 4096 then bcdTens b
        else if a.toNat % 4096 = s.index.toNat % 4096 then bcdHundreds b else s.readByte a := by
  simp [State.storeDecimals, State.readByte_writeByte]

/-- An address of the claims, `(I + k) mod 4096`, is its own residue. -/
theorem ofNat_mod_4096_toNat (n : Nat) : (BitVec.ofNat 16 (n % 4096)).toNat % 4096 = n % 4096 := by
  rw [BitVec.toNat_ofNat]
  omega

/-- Settles O55: the three addresses differ mod 4096, so each keeps its digit, and no other address is written. -/
theorem decimalDigitsAreStored : Obligations.DecimalDigitsAreStored := by
  rintro s x _ rfl
  refine ⟨_, exec_ldB_eq s x, ?_, ?_, ?_, fun a ha => ?_, rfl, fun _ _ => rfl⟩
  · rw [s.storeDecimals_readByte, ofNat_mod_4096_toNat, if_neg (by omega), if_neg (by omega), if_pos rfl,
      bcdHundreds_toNat]
  · rw [s.storeDecimals_readByte, ofNat_mod_4096_toNat, if_neg (by omega), if_pos rfl, bcdTens_toNat]
  · rw [s.storeDecimals_readByte, ofNat_mod_4096_toNat, if_pos rfl, bcdOnes_toNat]
  · have ha0 : a.toNat % 4096 ≠ s.index.toNat % 4096 := ha 0 (by decide)
    rw [s.storeDecimals_readByte, if_neg (ha 2 (by decide)), if_neg (ha 1 (by decide)), if_neg ha0]

/-! ## The bulk transfers (R197, R198) -/

/-- Settles O56: FX55 is a block of `x + 1` transfers, at most 16, so no two meet at one address. -/
theorem registersAreStored : Obligations.RegistersAreStored := by
  intro s x
  have hn : x.toNat + 1 ≤ 16 := x.isLt
  refine ⟨s.storeBlock (x.toNat + 1), rfl, fun k hk => ?_, fun a ha => ?_, s.storeBlock_index _ (Nat.succ_pos _),
    s.storeBlock_eq _, fun r _ => s.storeBlock_reg _ r⟩
  · exact (s.storeBlock_readByte _ hn _).1 k (Nat.lt_succ_of_le hk) (ofNat_mod_4096_toNat _)
  · exact (s.storeBlock_readByte _ hn a).2 fun k hk => ha k (Nat.le_of_lt_succ hk)

/-- Settles O57: FX65 is a block of `x + 1` transfers, each from the memory that none of them writes. -/
theorem registersAreLoaded : Obligations.RegistersAreLoaded := by
  intro s x
  have hn : x.toNat + 1 ≤ 16 := x.isLt
  refine ⟨s.loadBlock (x.toNat + 1), rfl, fun k hk => ?_, fun r hr => ?_, s.loadBlock_index _ (Nat.succ_pos _),
    s.loadBlock_eq _, s.loadBlock_readByte _⟩
  · have hkr : (BitVec.ofNat 4 k).toNat = k := Nat.mod_eq_of_lt (by omega)
    rw [s.loadBlock_reg _ hn, hkr, if_pos (Nat.lt_succ_of_le hk)]
  · rw [s.loadBlock_reg _ hn, if_neg (Nat.not_lt.mpr hr)]

end Sys2Proof.Machine
end

section
/-! PROOFS for the multiplayer family (spec/46_multiplayer.md): SYNC and the sixteen instructions that select the key
source. -/

namespace Sys2Proof.Machine

/-! ## The barrier (R210) -/

theorem exec_sync_of_coord {s : State} (h : s.cfg.coordPresent = true) :
    exec .sync s = .next (State.emit { s with syncBarrier := true } .notifyArrival) := if_pos h

theorem exec_sync_of_no_coord {s : State} (h : s.cfg.coordPresent ≠ true) :
    exec .sync s = .next { s with syncBarrier := true } := if_neg h

/-- SYNC in one equation, with the notification as the claim writes it. -/
theorem exec_sync_eq (s : State) :
    exec .sync s = .next { s with
      syncBarrier := true, events := s.events ++ (if s.cfg.coordPresent then [.notifyArrival] else []) } := by
  by_cases h : s.cfg.coordPresent = true
  · rw [exec_sync_of_coord h, if_pos h]
    rfl
  · rw [exec_sync_of_no_coord h, if_neg h, List.append_nil]

/-- Settles O58: the barrier and the events are all that SYNC writes, coordinator or not. -/
theorem syncSetsTheBarrier : Obligations.SyncSetsTheBarrier :=
  fun s => ⟨_, exec_sync_eq s, rfl, fun _ _ => rfl, fun _ => rfl⟩

/-! ## The key source (R211, R212) -/

/-- The instructions of R211 and R212, each with the id of the source it selects. -/
def playerSelections : List (Instr × Nat) :=
  [(.player1, 1), (.player2, 2), (.player3, 3), (.player4, 4), (.player5, 5), (.player6, 6), (.player7, 7),
    (.player8, 8), (.player9, 9), (.player10, 10), (.player11, 11), (.player12, 12), (.player13, 13), (.player14, 14),
    (.player15, 15), (.shared, 0)]

theorem playerSelections_id_lt : ∀ e ∈ playerSelections, e.2 < 16 := by decide

/-- Each selecting instruction is the one state operation, at its own id. -/
theorem exec_playerSelections (s : State) :
    ∀ e ∈ playerSelections, exec e.1 s = .next (s.selectPlayer (BitVec.ofNat 4 e.2)) :=
  List.forall_iff_forall_mem.mp
    ⟨rfl, rfl, rfl, rfl, rfl, rfl, rfl, rfl, rfl, rfl, rfl, rfl, rfl, rfl, rfl, rfl⟩

/-- Settles O59: an id below 16 fits the four bits of the active player, the one field that is written. -/
theorem playerAndSharedSelectTheSource : Obligations.PlayerAndSharedSelectTheSource := by
  intro s i n hsel
  have hid : (BitVec.ofNat 4 n).toNat = n := Nat.mod_eq_of_lt (playerSelections_id_lt _ hsel)
  exact ⟨_, exec_playerSelections s _ hsel, hid, rfl, fun _ _ => rfl, fun _ => rfl⟩

end Sys2Proof.Machine
end

section
/-! PROOFS for the exceptions family (spec/60_exceptions.md): the two stack errors, the cycle that halts, and the timer
advance. -/

namespace Sys2Proof.Machine

/-! ## The stack errors (R220, R221) -/

/-- A return on an empty stack, or a call on a full one. -/
abbrev StackError (i : Instr) (s : State) : Prop :=
  (i = .ret ∧ s.sp.val = 0) ∨ ∃ nnn, i = .call nnn ∧ s.sp.val = 16

theorem exec_of_stackError {i : Instr} {s : State} (h : StackError i s) : exec i s = .next s.halt := by
  rcases h with ⟨rfl, hsp⟩ | ⟨nnn, rfl, hsp⟩
  · exact exec_ret_of_empty hsp
  · exact exec_call_of_full nnn hsp

theorem exec_ret_keeps_halted {s t : State} (h : exec .ret s = .next t) (hsp : 0 < s.sp.val) : t.halted = s.halted := by
  obtain rfl := Host.Outcome.next.inj ((exec_ret_of_nonempty hsp).symm.trans h)
  rfl

theorem exec_call_keeps_halted {s t : State} {nnn : Addr} (h : exec (.call nnn) s = .next t) (hsp : s.sp.val < 16) :
    t.halted = s.halted := by
  obtain rfl := Host.Outcome.next.inj ((exec_call_of_room nnn hsp).symm.trans h)
  rfl

/-- Settles O31: only the frame of a stack error has the halt flag in it, and RET and CALL
keep the flag where the stack has an entry or room. -/
theorem onlyStackErrorsHalt : Obligations.OnlyStackErrorsHalt := by
  intro i s t h hrun hhalt
  have hchanged : t.halted ≠ s.halted := by rw [hrun, hhalt]; decide
  cases exec_frame h with
  | stackError hi =>
    rcases hi with rfl | ⟨nnn, rfl⟩
    · exact .inl ⟨rfl, Nat.eq_zero_of_not_pos fun hsp => hchanged (exec_ret_keeps_halted h hsp)⟩
    · have hfull : ¬ s.sp.val < 16 := fun hsp => hchanged (exec_call_keeps_halted h hsp)
      exact .inr ⟨nnn, rfl, by omega⟩
  | _ => exact absurd rfl hchanged

/-- The fetched word as the claims write its two addresses (20_memory.md R61). -/
theorem State.fetchOpcode_eq (s : State) :
    s.fetchOpcode = s.readByte s.pc ++ s.readByte (BitVec.ofNat 16 ((s.pc.toNat + 1) % 4096)) :=
  congrArg (fun a => s.readByte s.pc ++ s.readByte a) (add12_eq_ofNat s.pc 1#16)

/-- Settles O40: the step runs the decoded instruction, which only sets the halt flag, and reports that flag. -/
theorem haltingCycleReportsHalted : Obligations.HaltingCycleReportsHalted := by
  intro s i hscript hgates hwait hd herr
  rw [s.fetchOpcode_eq] at hd
  exact stepRunsTheDecodedInstruction s i hscript hgates hwait hd _ (exec_of_stackError herr)

/-! ## The timer advance (R230, R231) -/

theorem tick_of_gated {s : State} (h : s.halted = true) (hgate : s.cfg.tickWhileHalted = false) : tick s = s :=
  if_pos (by rw [h, hgate]; rfl)

/-- A tick that acts, with the event as the claim writes it. -/
theorem tick_of_acting {s : State} (h : s.halted = false ∨ s.cfg.tickWhileHalted = true) :
    tick s = { s with
      delayTimer := countDown s.delayTimer, soundTimer := countDown s.soundTimer,
      events := s.events ++ (if s.soundTimer.toNat = 1 then [.toneStop] else []) } := by
  have hgate : ¬ (s.halted && !s.cfg.tickWhileHalted) = true := by
    rcases h with h | h <;> simp [h]
  rw [tick, if_neg hgate]
  have hlast : s.soundTimer = 1#8 ↔ s.soundTimer.toNat = 1 := BitVec.toNat_inj (y := 1#8).symm
  by_cases hone : s.soundTimer.toNat = 1
  · rw [if_pos hone, if_pos (hlast.mpr hone)]
    rfl
  · rw [if_neg hone, if_neg fun h => hone (hlast.mp h), List.append_nil]

/-- Settles O22: the gate of D17 holds a tick back, and else each timer counts down by itself. -/
theorem tickCountsBothTimersDown : Obligations.TickCountsBothTimersDown :=
  fun s => ⟨fun h hgate => congrArg Host.Outcome.next (tick_of_gated h hgate),
    fun h => ⟨_, congrArg Host.Outcome.next (tick_of_acting h), countDown_toNat s.delayTimer,
      countDown_toNat s.soundTimer, rfl, rfl⟩⟩

end Sys2Proof.Machine
end

section
/-! PROOFS for the reset and hazards family (spec/70_reset_and_hazards.md): what reset leaves in the state and in memory,
and the two outcomes of a load. -/

namespace Sys2Proof.Machine

section Load

variable {l : Layout} {s : State} {image : List Byte}

/-! ## The reset contents of memory (R250, 20_memory.md R66) -/

theorem memoryAtReset_glyph (l : Layout) {k : Nat} (hk : k < l.fontData.length) :
    memoryAtReset l (l.fontBase + k) = l.fontData[k] := by
  rw [memoryAtReset, if_pos (Nat.le_add_right _ _), Nat.add_sub_cancel_left, List.getD_eq_getElem _ _ hk]

theorem memoryAtReset_outside_glyphs {a : Nat} (h : a < l.fontBase ∨ l.fontBase + l.fontData.length ≤ a) :
    memoryAtReset l a = 0#8 := by
  rcases h with hbelow | habove
  · exact if_neg (Nat.not_le.mpr hbelow)
  · rw [memoryAtReset, if_pos (by omega), List.getD_eq_default _ _ (by omega)]

/-- The glyph table has 80 bytes and ends inside memory (20_memory.md R66, decision D5). -/
theorem Layout.glyphTable_fits (h : l.wellFormed = true) : l.fontData.length = 80 ∧ l.fontBase + 80 < 4096 := by
  simp only [Layout.wellFormed, Layout.fontComplete, Layout.fontBelowOrigin, Layout.originInMemory, Bool.and_eq_true,
    beq_iff_eq, decide_eq_true_eq] at h
  obtain ⟨⟨⟨⟨⟨⟨⟨⟨hlen, hbelow⟩, horigin⟩, -⟩, -⟩, -⟩, -⟩, -⟩, -⟩ := h
  exact ⟨hlen, Nat.lt_of_le_of_lt hbelow horigin⟩

/-- A reset leaves no written byte, so memory reads as its reset contents. -/
theorem resetOp_readByte (seed : Option Nat) (s : State) {a : Word} (ha : a.toNat < 4096) :
    (resetOp seed s).readByte a = memoryAtReset s.cfg.layout a.toNat := by
  have hread : (resetOp seed s).readByte a = memoryAtReset s.cfg.layout (wrap12 a).toNat := by
    rw [resetOp_eq]
    rfl
  rw [hread, wrap12_toNat, Nat.mod_eq_of_lt ha]

/-! ## Reset (R250) -/

theorem resetOp_rng_of_seed (n : Nat) (s : State) : (resetOp (some n) s).rng = n % 2 ^ s.cfg.prngWidth := rfl

theorem resetOp_rng_of_no_seed (s : State) :
    (resetOp none s).rng = Config.freeSeed s.seedDraws % 2 ^ s.cfg.prngWidth := rfl

/-! ## Load (R252) -/

theorem programOrigin_toNat (h : s.cfg.wellFormed = true) :
    (BitVec.ofNat 16 s.cfg.layout.programOrigin).toNat = s.cfg.layout.programOrigin :=
  Nat.mod_eq_of_lt ((programOrigin_lt h).trans (by decide))

/-- An image that fits ends inside memory, so the copy does not wrap. -/
theorem image_ends_in_memory (h : s.cfg.wellFormed = true)
    (hfit : image.length ≤ 4096 - s.cfg.layout.programOrigin) :
    (BitVec.ofNat 16 s.cfg.layout.programOrigin).toNat + image.length ≤ 4096 := by
  have horigin := programOrigin_lt h
  rw [programOrigin_toNat h]
  omega

/-- A load that fits writes memory alone of what reset answers. -/
theorem loadOp_of_fits_eq (hfit : image.length ≤ 4096 - s.cfg.layout.programOrigin) (seed : Option Nat) :
    loadOp image seed s = { resetOp seed s with mem := (loadOp image seed s).mem } := by
  rw [loadOp_of_fits hfit]
  exact State.copyBytes_eq _ _ _

theorem loadOp_readByte_inside (h : s.cfg.wellFormed = true)
    (hfit : image.length ≤ 4096 - s.cfg.layout.programOrigin) (seed : Option Nat) {k : Nat} (hk : k < image.length) :
    (loadOp image seed s).readByte (BitVec.ofNat 16 (s.cfg.layout.programOrigin + k)) = image[k] := by
  have hcopy := (resetOp seed s).copyBytes_inside _ image (image_ends_in_memory h hfit) k hk
  rwa [programOrigin_toNat h, ← loadOp_of_fits hfit] at hcopy

theorem loadOp_readByte_outside (h : s.cfg.wellFormed = true)
    (hfit : image.length ≤ 4096 - s.cfg.layout.programOrigin) (seed : Option Nat) {a : Word} (ha : a.toNat < 4096)
    (hout : a.toNat < s.cfg.layout.programOrigin ∨ s.cfg.layout.programOrigin + image.length ≤ a.toNat) :
    (loadOp image seed s).readByte a = (resetOp seed s).readByte a := by
  rw [← programOrigin_toNat h] at hout
  rw [loadOp_of_fits hfit]
  exact State.copyBytes_outside _ _ _ _ (image_ends_in_memory h hfit) ha hout

end Load

/-- Settles O25: a load that fits is the image copy on what reset answers, and the copy does not wrap. -/
theorem loadCopiesTheImage : Obligations.LoadCopiesTheImage := by
  rintro s image seed _ hwf rfl hfit
  exact ⟨resetOp seed s, loadOp image seed s, rfl, rfl, loadOp_of_fits_eq hfit seed,
    fun _ hk => loadOp_readByte_inside hwf hfit seed hk, fun _ ha hout => loadOp_readByte_outside hwf hfit seed ha hout⟩

/-- Settles O23: the fields are those of `resetOp_eq`, and memory reads as the reset contents of the instance's layout. -/
theorem resetReplacesTheState : Obligations.ResetReplacesTheState := by
  intro s seed
  refine ⟨resetOp seed s, rfl, resetOp_eq seed s, ?_, ?_, fun hwf => ?_⟩
  · rintro n rfl
    exact resetOp_rng_of_seed n s
  · rintro rfl
    exact resetOp_rng_of_no_seed s
  · obtain ⟨hlen, hend⟩ := Layout.glyphTable_fits (Config.layout_wellFormed hwf)
    refine ⟨fun k hk => ?_, fun a ha hout => ?_⟩
    · have haddr : (BitVec.ofNat 16 (s.cfg.layout.fontBase + k)).toNat = s.cfg.layout.fontBase + k :=
        Nat.mod_eq_of_lt (by omega)
      rw [resetOp_readByte seed s (by omega), haddr, memoryAtReset_glyph _ hk]
    · rw [resetOp_readByte seed s ha, memoryAtReset_outside_glyphs (by rwa [hlen])]

/-- Settles O24: the length check of the load fails, and the rejection is all it writes. -/
theorem tooLongImageIsRejected : Obligations.TooLongImageIsRejected :=
  fun _ _ seed hlong => congrArg Host.Outcome.next (loadOp_of_too_long hlong seed)

end Sys2Proof.Machine
end
